-- ==== Sys2Proof/Word.lean ====
section
/-! DEFINITION. The word types of the block (spec 00_scope R6, R8): no value is signed, and every
multi-bit value is one of these three unsigned widths. Counts, lengths and indexes are `Nat`. -/

namespace Sys2Proof

/-- `u8` (R8): an options field, a frame byte, a status or detail byte. -/
abbrev Byte := BitVec 8

/-- `u16` (R8): the message code as PARSE returns it (R83). -/
abbrev Half := BitVec 16

/-- `u32` (R8): the CRC register (R24), the code and length operands (R83), a byte count (R81). -/
abbrev Word := BitVec 32

end Sys2Proof
end

