-- ==== Sys2Proof/Syntax.lean ====
section
/-! DEFINITION. The commands of the port (spec 30_encoding R82, R83), one constructor per row of
spec/opcode_table.json, and the closed names a response is made of (60_exceptions R211). -/

namespace Sys2Proof

/-- One command of the port with its parsed operands (R83). Operand widths follow R83: a packer field
is a `u8` and the message code a `u32`, so that the out-of-range values can be expressed (D15). -/
inductive Instr where
  /-- `OPT_PACK ef, sb, tr, rs, rp, nm` (R101) -/
  | optPack (ef sb tr rs rp nm : Byte)
  /-- `OPT_UNPACK opt` (R104) -/
  | optUnpack (opt : Byte)
  /-- `LEN_ENCODE core_len` (R121) -/
  | lenEncode (coreLen : Word)
  /-- `LEN_DECODE field` (R125) -/
  | lenDecode (field : List Byte)
  /-- `REORDER s` (R141) -/
  | reorder (seq : List Byte)
  /-- `CRC32_ENGINE s` (R148) -/
  | crc32Engine (seq : List Byte)
  /-- `CHECKSUM s` (R152) -/
  | checksum (seq : List Byte)
  /-- `ENCODE dest, src, opt, code, payload` (R174) -/
  | encode (dest src opt : Byte) (code : Word) (payload : List Byte)
  /-- `VALIDATE buf` (R183) -/
  | validate (buf : List Byte)
  /-- `PARSE expect_msc, buf` (R196) -/
  | parse (expectMsc : Bool) (buf : List Byte)
  deriving DecidableEq, Repr

/-- The ten command names of R82. -/
inductive Mnemonic where
  | optPack | optUnpack | lenEncode | lenDecode | reorder
  | crc32Engine | checksum | encode | validate | parse
  deriving DecidableEq, Repr

/-- The eight error statuses of R211; `OK` is not an error and is `Response.ok`. -/
inductive ErrorStatus where
  | invalidField | codeOutOfRange | emptyBuffer | malformedFrame
  | lengthOutOfRange | capacityExceeded | illegalCommand | malformedRequest
  deriving DecidableEq, Repr, Inhabited

/-- What `raise E(detail)` ends a command with (R10, R84). -/
structure CmdError where
  status : ErrorStatus
  detail : Byte
  deriving DecidableEq, Repr, Inhabited

/-- How a command ends (R210): success with its serialized result, or one error and no result. -/
inductive Response where
  | ok (result : List Byte)
  | error (e : CmdError)
  deriving DecidableEq, Repr, Inhabited

/-- The six options fields in packing order (R100), each as the `u8` the port carries. -/
structure OptionFields where
  ef : Byte
  sb : Byte
  tr : Byte
  rs : Byte
  rp : Byte
  nm : Byte
  deriving DecidableEq, Repr

/-- The success result of PARSE (R83, R196). -/
structure FrameFields where
  form : Byte
  dest : Byte
  src : Byte
  opt : Byte
  code : Half
  payload : List Byte
  deriving DecidableEq, Repr

end Sys2Proof
end

