-- ==== Sys2Proof/Config.lean ====
section
/-! DEFINITION. What an implementation fixes and the free values (spec 00_scope R7,
93_implementation_defined I1 to I5). The constants R6 fixes (delimiters, polynomial, initial value,
length offsets) are no parameters and stand where they are used. -/

namespace Sys2Proof

/-- The value of the parameter FRAME_CAPACITY: "a natural number or ∞" (R7). -/
inductive Capacity where
  | unbounded
  | atMost (bytes : Nat)
  deriving DecidableEq, Repr

/-- The block's parameters (R7): FRAME_CAPACITY is the only one. DESIGN CHOICE (log 4): they stand in
`State`, where no step writes them, so that every statement holds for every value. -/
structure Config where
  frameCapacity : Capacity
  deriving DecidableEq, Repr

/-- The reference configuration of R7: FRAME_CAPACITY unbounded. -/
def Config.reference : Config := ⟨.unbounded⟩

/-- Free value (93 I1, R24): the CRC register between commands, "any value". Log 2. -/
opaque Config.crcUnspecified : Nat → Word

/-- Free value (93 I2, R252): whether a response not yet read when reset is asserted is delivered. Log 7. -/
opaque Config.deliveredAtReset : Nat → Bool

/-- Free value (93 I3, R257): the response to a command whose operand bytes the host changed while it
ran. Its type keeps R210 and R211: one of the two shapes and a listed status. Log 8. -/
opaque Config.disturbedResponse : Nat → Response

/-- Free value: the `u32` count written for a byte sequence of the given length when that length is
2^32 or more, for which R81 states no serialization. DESIGN CHOICE, log 9. -/
opaque Config.oversizeCount : Nat → Word

end Sys2Proof
end

