-- ==== Sys2Proof/WellFormed.lean ====
section
/-! DEFINITION. When an instruction can be written as a request at all (spec 30_encoding R81), and when its
operands fit FRAME_CAPACITY (R85). -/

namespace Sys2Proof

/-- The `bytes` operand of an instruction, if it has one (R83). No command has two. -/
def Instr.bytesOperand : Instr → Option (List Byte)
  | .optPack _ _ _ _ _ _ => none
  | .optUnpack _ => none
  | .lenEncode _ => none
  | .lenDecode field => some field
  | .reorder seq => some seq
  | .crc32Engine seq => some seq
  | .checksum seq => some seq
  | .encode _ _ _ _ payload => some payload
  | .validate buf => some buf
  | .parse _ buf => some buf

/-- The length of the `bytes` operand, 0 where there is none. -/
def Instr.operandLength (i : Instr) : Nat := (i.bytesOperand.getD []).length

/-- Well-formed: the byte count fits its `u32` (R81). Every other operand is bounded by its type. -/
def Instr.wf (i : Instr) : Bool := decide (i.operandLength < 2 ^ 32)

end Sys2Proof
end

