-- ==== Sys2Proof/Decode.lean ====
section
/-! DEFINITION. Command decode (spec 30_encoding R80 to R86), the serialization of R81 that requests and
responses share, and the encoder of a request. -/

namespace Sys2Proof

/-! ## Serialization of the port's types (R81) -/

/-- `u16`: little-endian, bits 7:0 first (R81). -/
def u16Bytes (v : Half) : List Byte := [v.extractLsb' 0 8, v.extractLsb' 8 8]

/-- `u32`: little-endian, bits 7:0 first and bits 31:24 last (R81). -/
def u32Bytes (v : Word) : List Byte :=
  [v.extractLsb' 0 8, v.extractLsb' 8 8, v.extractLsb' 16 8, v.extractLsb' 24 8]

/-- `bool`: `0x00` false, `0x01` true (R81). -/
def boolByte (b : Bool) : Byte := if b then 0x01#8 else 0x00#8

/-- The `u32` count of a byte sequence (R81). R81 gives no count for 2^32 bytes or more: a free value there
(DESIGN CHOICE, log 9). -/
def countWord (n : Nat) : Word := if n < 2 ^ 32 then BitVec.ofNat 32 n else Config.oversizeCount n

/-- `bytes`: the count, then the bytes in index order (R81). -/
def bytesField (s : List Byte) : List Byte := u32Bytes (countWord s.length) ++ s

/-- Reads a `u32` from the front (R81). -/
def readU32 : List Byte → Option (Word × List Byte)
  | b0 :: b1 :: b2 :: b3 :: rest => some (b3 ++ b2 ++ b1 ++ b0, rest)
  | _ => none

/-- Reads a `bool` from the front; a byte other than `0x00` and `0x01` is malformed (R81). -/
def readBool : List Byte → Option (Bool × List Byte)
  | b :: rest => if b = 0x00#8 then some (false, rest) else if b = 0x01#8 then some (true, rest) else none
  | [] => none

/-- Reads a `bytes` operand from the front: a count `k`, then exactly `k` bytes (R81). -/
def readBytes (s : List Byte) : Option (List Byte × List Byte) :=
  (readU32 s).bind fun (k, rest) =>
    if k.toNat ≤ rest.length then some (rest.take k.toNat, rest.drop k.toNat) else none

/-! ## The opcode map (R82) -/

/-- The opcode byte of a command (R82). -/
def Mnemonic.opcode : Mnemonic → Byte
  | .optPack => 0x01#8
  | .optUnpack => 0x02#8
  | .lenEncode => 0x03#8
  | .lenDecode => 0x04#8
  | .reorder => 0x05#8
  | .crc32Engine => 0x06#8
  | .checksum => 0x07#8
  | .encode => 0x08#8
  | .validate => 0x09#8
  | .parse => 0x0A#8

/-- The command an opcode byte names; `none` for `0x00` and `0x0B` to `0xFF`, the illegal space (R82, R86). -/
def Mnemonic.ofOpcode (op : Byte) : Option Mnemonic :=
  match op.toNat with
  | 1 => some .optPack
  | 2 => some .optUnpack
  | 3 => some .lenEncode
  | 4 => some .lenDecode
  | 5 => some .reorder
  | 6 => some .crc32Engine
  | 7 => some .checksum
  | 8 => some .encode
  | 9 => some .validate
  | 10 => some .parse
  | _ => none

/-- The command an instruction is. -/
def Instr.mnemonic : Instr → Mnemonic
  | .optPack _ _ _ _ _ _ => .optPack
  | .optUnpack _ => .optUnpack
  | .lenEncode _ => .lenEncode
  | .lenDecode _ => .lenDecode
  | .reorder _ => .reorder
  | .crc32Engine _ => .crc32Engine
  | .checksum _ => .checksum
  | .encode _ _ _ _ _ => .encode
  | .validate _ => .validate
  | .parse _ _ => .parse

/-! ## Operand lists (R83) -/

/-- Reads the operand list of a command from the front of the bytes after the opcode (R83); answers the
instruction and the bytes that remain, or `none` when the bytes run out or a `bool` is malformed. -/
def readOperands (m : Mnemonic) (s : List Byte) : Option (Instr × List Byte) :=
  match m with
  | .optPack =>
    match s with
    | ef :: sb :: tr :: rs :: rp :: nm :: rest => some (.optPack ef sb tr rs rp nm, rest)
    | _ => none
  | .optUnpack =>
    match s with
    | opt :: rest => some (.optUnpack opt, rest)
    | _ => none
  | .lenEncode => (readU32 s).map fun (n, rest) => (.lenEncode n, rest)
  | .lenDecode => (readBytes s).map fun (field, rest) => (.lenDecode field, rest)
  | .reorder => (readBytes s).map fun (seq, rest) => (.reorder seq, rest)
  | .crc32Engine => (readBytes s).map fun (seq, rest) => (.crc32Engine seq, rest)
  | .checksum => (readBytes s).map fun (seq, rest) => (.checksum seq, rest)
  | .encode =>
    match s with
    | dest :: src :: opt :: s₁ =>
      (readU32 s₁).bind fun (code, s₂) =>
        (readBytes s₂).map fun (payload, rest) => (.encode dest src opt code payload, rest)
    | _ => none
  | .validate => (readBytes s).map fun (buf, rest) => (.validate buf, rest)
  | .parse =>
    (readBool s).bind fun (expectMsc, s₁) =>
      (readBytes s₁).map fun (buf, rest) => (.parse expectMsc buf, rest)

/-! ## Command decode (R85) -/

/-- `n > FRAME_CAPACITY` (R85, R174); never with FRAME_CAPACITY unbounded. -/
def Capacity.exceededBy : Capacity → Nat → Bool
  | .unbounded, _ => false
  | .atMost cap, n => decide (cap < n)

/-- The `bytes` operand is not longer than FRAME_CAPACITY (R85). -/
def Instr.fits (cap : Capacity) (i : Instr) : Bool := !cap.exceededBy i.operandLength

/-- Command decode, "performed before any command semantics" (R85), with the priority of R215: an empty
request, the opcode, the operand list, then the operand's length. Total on any bytes. -/
def decode (cap : Capacity) (req : List Byte) : Except CmdError Instr :=
  match req with
  | [] => .error ⟨.malformedRequest, 0x00#8⟩
  | op :: operands =>
    match Mnemonic.ofOpcode op with
    | none => .error ⟨.illegalCommand, op⟩
    | some m =>
      match readOperands m operands with
      | none => .error ⟨.malformedRequest, 0x00#8⟩
      | some (i, rest) =>
        if rest ≠ [] then .error ⟨.malformedRequest, 0x00#8⟩
        else if i.fits cap then .ok i
        else .error ⟨.capacityExceeded, 0x00#8⟩

/-! ## The encoder -/

/-- The serialized operands of an instruction, in the order of R83. -/
def encodeOperands : Instr → List Byte
  | .optPack ef sb tr rs rp nm => [ef, sb, tr, rs, rp, nm]
  | .optUnpack opt => [opt]
  | .lenEncode coreLen => u32Bytes coreLen
  | .lenDecode field => bytesField field
  | .reorder seq => bytesField seq
  | .crc32Engine seq => bytesField seq
  | .checksum seq => bytesField seq
  | .encode dest src opt code payload => [dest, src, opt] ++ u32Bytes code ++ bytesField payload
  | .validate buf => bytesField buf
  | .parse expectMsc buf => boolByte expectMsc :: bytesField buf

/-- The request of an instruction (R80): its opcode byte, then its operands. -/
def encode (i : Instr) : List Byte := i.mnemonic.opcode :: encodeOperands i

/-! ## Words of the opcode table -/

/-- The first `k` bytes of `w`, its low byte first: a later byte's bits count on from the first byte's, as
spec/opcode_table.json numbers them. -/
def lowBytes : Nat → Nat → List Byte
  | 0, _ => []
  | k + 1, w => BitVec.ofNat 8 w :: lowBytes k (w / 256)

/-- The request a table word stands for. The table gives a row its opcode byte only, so the operand bytes
above `nbits` are zeros: as many as the command's operand list takes. Eleven zeros are the longest fixed
part of an operand list (ENCODE: three `u8`, a `u32`, a count). -/
def tableRequest (nbits w : Nat) : List Byte :=
  let laid := lowBytes (nbits / 8) w
  match laid with
  | [] => []
  | op :: operands =>
    match Mnemonic.ofOpcode op with
    | none => laid
    | some m =>
      let padded := operands ++ List.replicate 11 0x00#8
      match readOperands m padded with
      | none => laid
      | some (_, rest) => op :: padded.take (padded.length - rest.length)

/-- The instruction the decoder reads from a table word, with FRAME_CAPACITY at its reference value. -/
def decodeTableWord (nbits w : Nat) : Option Instr :=
  match decode .unbounded (tableRequest nbits w) with
  | .ok i => some i
  | .error _ => none

end Sys2Proof
end

