-- ==== Sys2Proof/Machine/State.lean ====
section
/-! DEFINITION. The state of the block (spec 10_state R30), what the outside world has put on it, and
the reasons a step can stop. INVENTORY.md, State, lists every field with its rule and reset value. -/

namespace Sys2Proof.Machine

open Sys2Proof

/-- The command port's two states (R29). -/
inductive PortState where
  | idle
  | busy
  deriving DecidableEq, Repr

/-- One action of the host on the block. -/
inductive Input where
  /-- the host writes one whole request (R80) -/
  | request (req : List Byte)
  /-- the host reads the oldest response on the port (R80, R252) -/
  | read
  /-- the host asserts the reset input (R250) -/
  | reset
  /-- the host issues a request and, against its duty, changes operand bytes while the command runs (R257, 93 I3) -/
  | disturbedRequest
  deriving DecidableEq, Repr

/-- The state of the block and its port. -/
structure State where
  /-- the command port, `Idle` or `Busy` (R29) -/
  port : PortState
  /-- the CRC register, 32 bits (R24) -/
  crc : Word
  /-- the reorder buffer; `none` outside a command (R25) -/
  reorderBuf : Option (List Byte)
  /-- the frame buffer; `none` outside a command (R26) -/
  frameBuf : Option (List Byte)
  /-- responses on the port that the host has not read, oldest first (R251, R252, R52) -/
  pending : List (List Byte)
  /-- responses the host has read, in order: the observable outcome of a run (R261) -/
  delivered : List (List Byte)
  /-- what the host has put on the block and the block has not taken, oldest first (R225) -/
  inputs : List Input
  /-- the parameters (R7); no step writes them -/
  cfg : Config
  /-- how many free values have been taken: the model's own counter, not the spec's (log 3) -/
  draws : Nat
  deriving DecidableEq, Repr

/-- Why a step can stop with a fault. -/
inductive Fault where
  /-- raised by `step` when a request arrives while the port shows `Busy` between two steps. R29 says `Busy` is
  never observed in the model, so the spec gives such a state no effect and no run from reset reaches it.
  Safe: nothing can be proved of such a state (log 10). -/
  | portBusy
  deriving DecidableEq, Repr

/-- Why a step can refuse. -/
inductive Refusal where
  /-- raised by an arm of `exec` for an instruction that has no meaning yet; no arm does. Safe. -/
  | notModelled (mnemonic : String)
  deriving DecidableEq, Repr

/-- The block right after reset (R30, R251): port `Idle`, no response pending, buffers absent, FRAME_CAPACITY at
the reference value of R7. The spec leaves the CRC register unspecified: 0 is the model's (DESIGN CHOICE, log 1). -/
def State.reset : State where
  port := .idle
  crc := 0x00000000#32
  reorderBuf := none
  frameBuf := none
  pending := []
  delivered := []
  inputs := []
  cfg := .reference
  draws := 0

end Sys2Proof.Machine
end

