-- ==== Sys2Proof/Machine/Flags.lean ====
section
/-! DEFINITION. The outcome of a command. The block has no flags (spec 10_state R22): what another machine keeps
in flags, this one returns in its response as a status (60_exceptions R210, R211; 30_encoding R84). -/

namespace Sys2Proof.Machine

open Sys2Proof

/-- The status byte of an error (R211). -/
def statusByte : ErrorStatus → Byte
  | .invalidField => 0x01#8
  | .codeOutOfRange => 0x02#8
  | .emptyBuffer => 0x03#8
  | .malformedFrame => 0x04#8
  | .lengthOutOfRange => 0x05#8
  | .capacityExceeded => 0x06#8
  | .illegalCommand => 0x07#8
  | .malformedRequest => 0x08#8

/-- `raise E(detail)`: the command ends with this error and no result (R10). -/
def raise {α : Type} (status : ErrorStatus) (detail : Byte) : Except CmdError α := .error ⟨status, detail⟩

/-- The bytes of a response (R80, R84): `0x00` and the result, or exactly `[status, detail]`. -/
def responseBytes : Response → List Byte
  | .ok result => 0x00#8 :: result
  | .error e => [statusByte e.status, e.detail]

/-- How a command ends, from what its rule computes and how R83 serializes that result. -/
def respond {α : Type} (serialize : α → List Byte) : Except CmdError α → Response
  | .ok result => .ok (serialize result)
  | .error e => .error e

end Sys2Proof.Machine
end

