-- ==== Sys2Proof/Machine/Operands.lean ====
section
/-! DEFINITION. The operand and result forms of the commands (spec 00_scope R8, R9; 30_encoding R66, R67,
R81, R83). -/

namespace Sys2Proof.Machine

open Sys2Proof

/-- `s[i]` (R9). Every use stands behind a length check, so the default is never read. -/
def byteAt (s : List Byte) (i : Nat) : Byte := s.getD i 0x00#8

/-- `s[i..j)` (R9): the bytes of indices `i` to `j - 1`, empty when `j <= i`. -/
def slice (s : List Byte) (i j : Nat) : List Byte := (s.take j).drop i

/-- `zeros(k)` (R9). -/
def zeros (k : Nat) : List Byte := List.replicate k 0x00#8

/-- `v[hi:lo]` of a byte, as a `u8` (R8), for a field of `width` bits that starts at bit `lo`. -/
def byteField (v : Byte) (lo width : Nat) : Byte := (v.extractLsb' lo width).setWidth 8

/-- `a | b << 8` of two bytes, the low one first (R41, R42). -/
def pairLE (lo hi : Byte) : Half := hi ++ lo

/-- `lsc = code & 0xFF` (R171). -/
def lscOf (code : Word) : Byte := code.extractLsb' 0 8

/-- `msc = code >> 8` (R171), for a code that has passed the check `code <= 65535`. -/
def mscOf (code : Word) : Byte := code.extractLsb' 8 8

/-- The message code from its two bytes: `lsc | (msc << 8)` (R196). -/
def codeOf (lsc msc : Byte) : Half := pairLE lsc msc

/-! ## Success results (R83) -/

/-- A `u8` result. -/
def u8Result (v : Byte) : List Byte := [v]

/-- A `bool` result. -/
def boolResult (b : Bool) : List Byte := [boolByte b]

/-- OPT_UNPACK's result: the six fields in packing order. -/
def optionFieldsResult (f : OptionFields) : List Byte := [f.ef, f.sb, f.tr, f.rs, f.rp, f.nm]

/-- PARSE's result: `form dest src opt code:u16 payload:bytes`. -/
def frameFieldsResult (f : FrameFields) : List Byte :=
  [f.form, f.dest, f.src, f.opt] ++ u16Bytes f.code ++ bytesField f.payload

end Sys2Proof.Machine
end

