-- ==== Sys2Proof/Machine/Ops.lean ====
section
/-! DEFINITION. The named operations over the block's state: the course of one command from `Idle` to `Idle`
(spec 10_state R29), the CRC register and the two buffers inside it (R24 to R26), the host's read and the reset
input (70_reset R250 to R252), and the two computations several commands share: the checksum (42_checksum) and
the length field (41_length_encoder). The block has no traps (60_exceptions R218): taking an error is `finish`
with an error response. -/

namespace Sys2Proof.Machine

open Sys2Proof

/-! ## The checksum's stages (42_checksum) -/

/-- The byte reorder (R140, R141): each complete group of four is reversed; one to three leftover bytes are padded
with trailing zeros to four and then reversed. -/
def reorder : List Byte → List Byte
  | [] => []
  | [a] => [0x00#8, 0x00#8, 0x00#8, a]
  | [a, b] => [0x00#8, 0x00#8, b, a]
  | [a, b, c] => [0x00#8, c, b, a]
  | a :: b :: c :: d :: rest => d :: c :: b :: a :: reorder rest

/-- One bit of the byte step (R144): test the top bit, shift left, then XOR the polynomial if it was set. -/
def crcBit (crc : Word) : Word :=
  if crc.getLsbD 31 then (crc <<< 1) ^^^ 0x04C11DB7#32 else crc <<< 1

/-- `f` applied `n` times. -/
def iterate (f : Word → Word) : Nat → Word → Word
  | 0, w => w
  | n + 1, w => iterate f n (f w)

/-- The byte step `crc_step` (R144): the byte goes into bits 31:24, then eight bit steps. -/
def crcStep (crc : Word) (b : Byte) : Word := iterate crcBit 8 (crc ^^^ (b.setWidth 32 <<< 24))

/-- The CRC register's value at the start of every command that uses it (R24, R254). -/
def crcInitial : Word := 0xFFFFFFFF#32

/-- `crc32(r)` (R143): no reflection and no final XOR (R145). -/
def crc32 (r : List Byte) : Word := r.foldl crcStep crcInitial

/-- Truncation: bits 7:0 of the final register (R149, R150). -/
def lowByte (crc : Word) : Byte := crc.extractLsb' 0 8

/-- The checksum of a byte sequence as a function (R152). The commands compute it through the block's own
buffer and register (`State.runChecksum`); Laws/Ops.lean proves the two equal. -/
def checksum (s : List Byte) : Byte := lowByte (crc32 (reorder s))

/-! ## The length field (41_length_encoder) -/

/-- The length-field arithmetic (R120), "transcribed exactly". -/
def lengthField (coreLen : Nat) : List Byte :=
  if coreLen ≤ 255 then [BitVec.ofNat 8 (coreLen - 3)]
  else [BitVec.ofNat 8 ((coreLen - 4) % 256), BitVec.ofNat 8 ((coreLen - 4) / 256)]

/-- LEN_ENCODE with its range check (R121, R122). -/
def lenEncode (coreLen : Nat) : Except CmdError (List Byte) :=
  if coreLen < 6 ∨ 65539 < coreLen then raise .lengthOutOfRange 0x00#8 else .ok (lengthField coreLen)

/-! ## The course of one command (10_state R29) -/

/-- The port accepts a request: `Busy` while the command runs (R29). -/
def State.accept (s : State) : State := { s with port := .busy }

/-- The reorder buffer is built from the bytes the checksum runs over (R25). -/
def State.loadReorder (s : State) (bs : List Byte) : State := { s with reorderBuf := some (reorder bs) }

/-- The CRC register is set before its first byte (R24, R254). -/
def State.initCrc (s : State) : State := { s with crc := crcInitial }

/-- The CRC register takes bytes in index order (R143). -/
def State.feedCrc (s : State) (bs : List Byte) : State := { s with crc := bs.foldl crcStep s.crc }

/-- The CRC register consumes the reorder buffer (R25). -/
def State.feedReordered (s : State) : State := s.feedCrc (s.reorderBuf.getD [])

/-- A checksum run (R152): reorder, initialise, consume. -/
def State.runChecksum (s : State) (bs : List Byte) : State := ((s.loadReorder bs).initCrc).feedReordered

/-- The checksum byte the register holds after a run (R149). -/
def State.checksumByte (s : State) : Byte := lowByte s.crc

/-- The frame buffer holds what ENCODE has built so far (R26). -/
def State.setFrame (s : State) (frame : List Byte) : State := { s with frameBuf := some frame }

/-- The command ends (R29): its one response is on the port, the port is `Idle`, the buffers no longer exist
(R25, R26), and the CRC register is unspecified again (R24, 93 I1: a free value, log 2). -/
def State.finish (s : State) (r : Response) : State :=
  { s with
    port := .idle
    crc := Config.crcUnspecified s.draws
    reorderBuf := none
    frameBuf := none
    pending := s.pending ++ [responseBytes r]
    draws := s.draws + 1 }

/-- The command ends as its rule says, with the result serialized by R83 or with its error (R84). -/
def State.finishWith {α : Type} (s : State) (serialize : α → List Byte) (r : Except CmdError α) : State :=
  s.finish (respond serialize r)

/-! ## The host's other actions -/

/-- The host reads the oldest response on the port (R52 (b), R261); with none there nothing changes. -/
def State.readResponse (s : State) : State :=
  match s.pending with
  | [] => s
  | r :: rest => { s with pending := rest, delivered := s.delivered ++ [r] }

/-- Which of the responses not yet read are delivered when reset is asserted (R252): for each a draw, delivered
as it is or not at all (a free value, log 7). -/
def drawDelivered : Nat → List (List Byte) → List (List Byte)
  | _, [] => []
  | n, r :: rest =>
    if Config.deliveredAtReset n then r :: drawDelivered (n + 1) rest else drawDelivered (n + 1) rest

/-- The reset input (R250, R251): the port is `Idle`, no response is pending, the buffers are absent, and the CRC
register is unspecified (a free value, log 2). -/
def State.assertReset (s : State) : State :=
  { s with
    port := .idle
    crc := Config.crcUnspecified (s.draws + s.pending.length)
    reorderBuf := none
    frameBuf := none
    pending := []
    delivered := s.delivered ++ drawDelivered s.draws s.pending
    draws := s.draws + s.pending.length + 1 }

end Sys2Proof.Machine
end

