-- ==== Sys2Proof/Machine/Checksum.lean ====
section
/-! DEFINITION. The checksum and its exposed stages (spec 42_checksum): REORDER, CRC32_ENGINE, CHECKSUM. -/

namespace Sys2Proof.Machine

open Sys2Proof

/-- `REORDER s` (R141): the result is the reorder buffer. -/
def execReorder (seq : List Byte) (s : State) : Host.Outcome State Fault Refusal :=
  let s₁ := s.accept.loadReorder seq
  .next (s₁.finish (.ok (bytesField (s₁.reorderBuf.getD []))))

/-- `CRC32_ENGINE s` (R148): the register runs over the bytes as given, with no reorder and no truncation. -/
def execCrc32Engine (seq : List Byte) (s : State) : Host.Outcome State Fault Refusal :=
  let s₁ := s.accept.initCrc.feedCrc seq
  .next (s₁.finish (.ok (u32Bytes s₁.crc)))

/-- `CHECKSUM s` (R152): any length is accepted, 0 included. -/
def execChecksum (seq : List Byte) (s : State) : Host.Outcome State Fault Refusal :=
  let s₁ := s.accept.runChecksum seq
  .next (s₁.finish (.ok (u8Result s₁.checksumByte)))

end Sys2Proof.Machine
end

