-- ==== Sys2Proof/Machine/Frame.lean ====
section
/-! DEFINITION. The frame codec (spec 43_frame_codec): ENCODE, VALIDATE, PARSE. The layout is 30_encoding R60
to R65. -/

namespace Sys2Proof.Machine

open Sys2Proof

/-! ## ENCODE -/

/-- The opening delimiters `H` and `Z` (R61). -/
def delimiters : List Byte := [0x48#8, 0x5A#8]

/-- The core body (R172): `msc` is present if and only if it is not zero (R171). -/
def coreBody (dest src opt : Byte) (code : Word) (payload : List Byte) : List Byte :=
  delimiters ++ [dest, src, opt, lscOf code]
    ++ (if mscOf code ≠ 0x00#8 then [mscOf code] else []) ++ payload

/-- The length field is inserted immediately after `Z`, at index 2 (R173). -/
def insertField (core field : List Byte) : List Byte := slice core 0 2 ++ field ++ slice core 2 core.length

/-- `ENCODE dest, src, opt, code, payload` (R174), step by step in the frame buffer: split the code, build the core
body, insert the length field, append the checksum of the sequence so far (R175), check the result's size (R178). -/
def execEncode (dest src opt : Byte) (code : Word) (payload : List Byte) (s : State) :
    Host.Outcome State Fault Refusal :=
  if 65535 < code.toNat then
    .next (s.accept.finish (.error ⟨.codeOutOfRange, 0x00#8⟩))
  else
    let core := coreBody dest src opt code payload
    let s₁ := s.accept.setFrame core
    match lenEncode core.length with
    | .error e => .next (s₁.finish (.error e))
    | .ok field =>
      let body := insertField core field
      let s₂ := (s₁.setFrame body).runChecksum body
      let frame := body ++ [s₂.checksumByte]
      let s₃ := s₂.setFrame frame
      if s.cfg.frameCapacity.exceededBy frame.length then
        .next (s₃.finish (.error ⟨.capacityExceeded, 0x00#8⟩))
      else .next (s₃.finish (.ok (bytesField frame)))

/-! ## VALIDATE -/

/-- The minimum frame: 2 delimiters, a length byte, 4 header bytes and the checksum (R184). -/
def minimumFrame : Nat := 8

/-- `VALIDATE buf` (R183): the minimum length and the checksum, and nothing else (R185); a mismatch is the result
`false`, not an error. -/
def execValidate (buf : List Byte) (s : State) : Host.Outcome State Fault Refusal :=
  if buf.length < minimumFrame then
    .next (s.accept.finish (.error ⟨.emptyBuffer, 0x00#8⟩))
  else
    let s₁ := s.accept.runChecksum (slice buf 0 (buf.length - 1))
    .next (s₁.finish (.ok (boolResult (s₁.checksumByte == byteAt buf (buf.length - 1)))))

/-! ## PARSE -/

/-- The length form and the offset of the destination byte, from the length field and the buffer's length (R196,
R198): a one-byte field that accounts for the buffer, or a two-byte field where it under-counts. -/
def lengthForm (buf : List Byte) : Except CmdError (Byte × Nat) :=
  let n := buf.length
  let len := (byteAt buf 2).toNat
  if len + 5 = n then
    if 252 < len then raise .malformedFrame 0x03#8 else .ok (0x01#8, 3)
  else if len + 5 < n then
    let a := (pairLE (byteAt buf 2) (byteAt buf 3)).toNat
    if a + 7 ≠ n ∨ a < 252 then raise .malformedFrame 0x03#8 else .ok (0x02#8, 4)
  else raise .malformedFrame 0x03#8

/-- The msc and the payload from the bytes after `lsc` (R196, R197). -/
def splitTail (expectMsc : Bool) (tail : List Byte) : Except CmdError (Byte × List Byte) :=
  if expectMsc then
    match tail with
    | [] => raise .malformedFrame 0x04#8
    | msc :: payload => if msc = 0x00#8 then raise .malformedFrame 0x04#8 else .ok (msc, payload)
  else .ok (0x00#8, tail)

/-- PARSE's structural checks, after the length and checksum checks, and the fields (R196). -/
def parseFields (expectMsc : Bool) (buf : List Byte) : Except CmdError FrameFields :=
  if byteAt buf 0 ≠ 0x48#8 ∨ byteAt buf 1 ≠ 0x5A#8 then raise .malformedFrame 0x02#8
  else
    match lengthForm buf with
    | .error e => .error e
    | .ok (form, k) =>
      match splitTail expectMsc (slice buf (k + 4) (buf.length - 1)) with
      | .error e => .error e
      | .ok (msc, payload) =>
        .ok { form := form
              dest := byteAt buf k
              src := byteAt buf (k + 1)
              opt := byteAt buf (k + 2)
              code := codeOf (byteAt buf (k + 3)) msc
              payload := payload }

/-- `PARSE expect_msc, buf` (R196): minimum length, checksum, delimiters, length field, msc, in that order. -/
def execParse (expectMsc : Bool) (buf : List Byte) (s : State) : Host.Outcome State Fault Refusal :=
  if buf.length < minimumFrame then
    .next (s.accept.finish (.error ⟨.emptyBuffer, 0x00#8⟩))
  else
    let s₁ := s.accept.runChecksum (slice buf 0 (buf.length - 1))
    if s₁.checksumByte ≠ byteAt buf (buf.length - 1) then
      .next (s₁.finish (.error ⟨.malformedFrame, 0x01#8⟩))
    else .next (s₁.finishWith frameFieldsResult (parseFields expectMsc buf))

end Sys2Proof.Machine
end

