-- ==== Sys2Proof/Machine/Length.lean ====
section
/-! DEFINITION. The frame-size encoder (spec 41_length_encoder): LEN_ENCODE and LEN_DECODE. The arithmetic that
ENCODE shares (`lengthField`, `lenEncode`) stands in Ops.lean. -/

namespace Sys2Proof.Machine

open Sys2Proof

/-- LEN_DECODE's rule (R125): exactly the fields LEN_ENCODE produces are accepted. -/
def lenDecode (field : List Byte) : Except CmdError Nat :=
  match field with
  | [len] =>
    if len.toNat < 3 ∨ 252 < len.toNat then raise .lengthOutOfRange 0x00#8 else .ok (len.toNat + 3)
  | [lsl, msl] =>
    if (pairLE lsl msl).toNat < 252 then raise .lengthOutOfRange 0x00#8 else .ok ((pairLE lsl msl).toNat + 4)
  | _ => raise .lengthOutOfRange 0x00#8

/-- `LEN_ENCODE core_len` (R121). -/
def execLenEncode (coreLen : Word) (s : State) : Host.Outcome State Fault Refusal :=
  .next (s.accept.finishWith bytesField (lenEncode coreLen.toNat))

/-- `LEN_DECODE field` (R125). -/
def execLenDecode (field : List Byte) (s : State) : Host.Outcome State Fault Refusal :=
  .next (s.accept.finishWith (fun n => u32Bytes (BitVec.ofNat 32 n)) (lenDecode field))

end Sys2Proof.Machine
end

