-- ==== Sys2Proof/Machine/Options.lean ====
section
/-! DEFINITION. The options-byte packer (spec 40_options_packer): OPT_PACK and OPT_UNPACK. -/

namespace Sys2Proof.Machine

open Sys2Proof

/-- The packer's fields with their widths, in packing order (R100). -/
def packingOrder (f : OptionFields) : List (Byte × Nat) :=
  [(f.ef, 1), (f.sb, 1), (f.tr, 2), (f.rs, 1), (f.rp, 2), (f.nm, 1)]

/-- The index, from `at_` on, of the first field that does not fit its width (R101, R212). -/
def firstBadField : Nat → List (Byte × Nat) → Option Nat
  | _, [] => none
  | at_, (v, width) :: rest => if 2 ^ width ≤ v.toNat then some at_ else firstBadField (at_ + 1) rest

/-- The packed byte (R66, R101): `ef << 7 | sb << 6 | tr << 4 | rs << 3 | rp << 1 | nm`. -/
def packByte (f : OptionFields) : Byte :=
  (f.ef <<< 7) ||| (f.sb <<< 6) ||| (f.tr <<< 4) ||| (f.rs <<< 3) ||| (f.rp <<< 1) ||| f.nm

/-- OPT_PACK's rule (R101): the whole set is validated before anything is packed (R103). -/
def optPack (f : OptionFields) : Except CmdError Byte :=
  match firstBadField 0 (packingOrder f) with
  | some i => raise .invalidField (BitVec.ofNat 8 i)
  | none => .ok (packByte f)

/-- OPT_UNPACK's rule (R104). -/
def optUnpack (opt : Byte) : OptionFields where
  ef := byteField opt 7 1
  sb := byteField opt 6 1
  tr := byteField opt 4 2
  rs := byteField opt 3 1
  rp := byteField opt 1 2
  nm := byteField opt 0 1

/-- `OPT_PACK ef, sb, tr, rs, rp, nm` (R101). -/
def execOptPack (ef sb tr rs rp nm : Byte) (s : State) : Host.Outcome State Fault Refusal :=
  .next (s.accept.finishWith u8Result (optPack ⟨ef, sb, tr, rs, rp, nm⟩))

/-- `OPT_UNPACK opt` (R104). -/
def execOptUnpack (opt : Byte) (s : State) : Host.Outcome State Fault Refusal :=
  .next (s.accept.finish (.ok (optionFieldsResult (optUnpack opt))))

end Sys2Proof.Machine
end

