-- ==== Sys2Proof/Machine/Dispatch.lean ====
section
/-! DEFINITION. One arm per command: its meaning, by one direct call. -/

namespace Sys2Proof.Machine

open Sys2Proof

/-- Performs the rule of a decoded command (spec 30_encoding R85, last line). -/
def exec (i : Instr) (s : State) : Host.Outcome State Fault Refusal :=
  match i with
  | .optPack ef sb tr rs rp nm => Sys2Proof.Machine.execOptPack ef sb tr rs rp nm s
  | .optUnpack opt => Sys2Proof.Machine.execOptUnpack opt s
  | .lenEncode coreLen => Sys2Proof.Machine.execLenEncode coreLen s
  | .lenDecode field => Sys2Proof.Machine.execLenDecode field s
  | .reorder seq => Sys2Proof.Machine.execReorder seq s
  | .crc32Engine seq => Sys2Proof.Machine.execCrc32Engine seq s
  | .checksum seq => Sys2Proof.Machine.execChecksum seq s
  | .encode dest src opt code payload => Sys2Proof.Machine.execEncode dest src opt code payload s
  | .validate buf => Sys2Proof.Machine.execValidate buf s
  | .parse expectMsc buf => Sys2Proof.Machine.execParse expectMsc buf s

end Sys2Proof.Machine
end

