-- ==== Sys2Proof/Machine/Port.lean ====
section
/-! DEFINITION. What the block does with each input of the port: command decode before command semantics
(spec 30_encoding R85), and the request a host disturbs (70_reset R257). -/

namespace Sys2Proof.Machine

open Sys2Proof

/-- Takes a request the port has accepted: decode it, and perform the command or answer decode's error
(R85, R215). Either way one response is on the port and the port is `Idle` (R29, R219). -/
def serve (req : List Byte) (s : State) : Host.Outcome State Fault Refusal :=
  match decode s.cfg.frameCapacity req with
  | .error e => .next (s.accept.finish (.error e))
  | .ok i => exec i s

/-- A command whose operand bytes the host changes while it runs: any status and result, and the block stays
usable (R257, 93 I3; log 8). -/
def serveDisturbed (s : State) : Host.Outcome State Fault Refusal :=
  .next (s.accept.finish (Config.disturbedResponse s.draws))

/-- The port accepts a request in `Idle` only (R29). A `Busy` port between two steps is never observed, and the spec
gives it no effect (log 10). -/
def whenIdle (s : State) (run : State → Host.Outcome State Fault Refusal) : Host.Outcome State Fault Refusal :=
  match s.port with
  | .idle => run s
  | .busy => .fault .portBusy

/-- One input of the host, taken off the front of `inputs`. -/
def takeInput (i : Input) (s : State) : Host.Outcome State Fault Refusal :=
  match i with
  | .request req => whenIdle s (serve req)
  | .read => .next s.readResponse
  | .reset => .next s.assertReset
  | .disturbedRequest => whenIdle s serveDisturbed

end Sys2Proof.Machine
end

