-- ==== Sys2Proof/Machine/Step.lean ====
section
/-! DEFINITION. One step of the block: it takes the oldest input of the host (spec 60_exceptions R225, arrival
order). The block fetches nothing and has no program counter (10_state R21; 20_memory R55). -/

namespace Sys2Proof.Machine

open Sys2Proof

/-- One step. With no input the block stays as it is: nothing happens while no command runs (R219). -/
def step (s : State) : Host.Outcome State Fault Refusal :=
  match s.inputs with
  | [] => .next s
  | i :: rest => takeInput i { s with inputs := rest }

/-- The host issues the request a table word stands for, so that the very next step runs it: the request is the
oldest input and the port is `Idle`. This stands for a program's load (log 5). -/
def State.withFetchWord (s : State) (nbits w : Nat) : State :=
  { s with port := .idle, inputs := .request (tableRequest nbits w) :: s.inputs }

end Sys2Proof.Machine
end

