-- ==== Sys2Proof/Machine/HostProgram.lean ====
section
/-! DEFINITION. Host programs (spec 30_encoding R87, R88; 70_reset R261): the command lines a host issues, its named
results, and the pseudo-instructions FRAME and CRC32_FULL. "References are substituted by the host before the
request is encoded; the block never sees a name" (R87): everything here drives the port and is no part of the
block. Where R87 leaves the host's side open, log 11 says what is chosen. -/

namespace Sys2Proof.Machine

open Sys2Proof

/-- A value that a host name or an operand stands for (R87). -/
inductive Value where
  | num (n : Nat)
  | flag (b : Bool)
  | bytes (s : List Byte)
  deriving DecidableEq, Repr

/-- A success result by the field names of R83. -/
abbrev Fields := List (String × Value)

/-- One operand of a command line (R87). -/
inductive Operand where
  | num (n : Nat)
  | bytes (s : List Byte)
  | zeroBytes (k : Nat)
  | ref (name : String)
  | refField (name field : String)
  deriving DecidableEq, Repr

/-- One line of a host program (R87, R88). The three `host` forms are actions of the host: a remark, a raw request,
and a flipped bit of a stored byte sequence (R87's own example); they have no encoding. -/
inductive Line where
  | command (bind : Option String) (m : Mnemonic) (operands : List Operand)
  | frame (bind : Option String) (operands : List Operand)
  | crc32Full (bind : Option String) (operand : Operand)
  | hostRemark (text : String)
  | hostRequest (req : List Byte)
  | hostFlip (target source : String) (byte bit : Nat)
  deriving DecidableEq, Repr

/-- The name a pseudo-instruction binds its first result to: R88's `t`, spelled so that no program can write it. -/
def pseudoName : String := "(t)"

/-- The expansion of a pseudo-instruction into commands (R88); any other line stands for itself. -/
def Line.expand : Line → List Line
  | .frame bind [dest, src, ef, sb, tr, rs, rp, nm, code, payload] =>
    [.command (some pseudoName) .optPack [ef, sb, tr, rs, rp, nm],
     .command bind .encode [dest, src, .ref pseudoName, code, payload]]
  | .frame bind operands => [.frame bind operands]
  | .crc32Full bind s =>
    [.command (some pseudoName) .reorder [s], .command bind .crc32Engine [.ref pseudoName]]
  | .command bind m operands => [.command bind m operands]
  | .hostRemark text => [.hostRemark text]
  | .hostRequest req => [.hostRequest req]
  | .hostFlip target source byte bit => [.hostFlip target source byte bit]

/-! ## The host's names -/

/-- What the host has bound, newest first. -/
abbrev Env := List (String × Fields)

/-- `$name`: the value of a single-field result (R87). DESIGN CHOICE (log 11): of a multi-field result it is no value. -/
def Env.value (env : Env) (name : String) : Option Value :=
  match env.lookup name with
  | some [(_, v)] => some v
  | _ => none

/-- `$name.field`: one field of a multi-field result (R87). DESIGN CHOICE (log 11): the only field of a single-field result may
be named so too (`$t.opt`), and a flipped copy's only field is named `value`; R87 gives the form for multi-field results
and says nothing of these. -/
def Env.fieldValue (env : Env) (name field : String) : Option Value :=
  (env.lookup name).bind fun fields => fields.lookup field

/-- An operand after substitution (R87). -/
def Operand.resolve (env : Env) : Operand → Option Value
  | .num n => some (.num n)
  | .bytes s => some (.bytes s)
  | .zeroBytes k => some (.bytes (zeros k))
  | .ref name => env.value name
  | .refField name field => env.fieldValue name field

/-- A `u8` operand; a number that does not fit has no encoding (R81). DESIGN CHOICE (log 11): a `bool` result does not stand
for one, on which R87 is silent. -/
def Value.asU8 : Value → Option Byte
  | .num n => if n < 256 then some (BitVec.ofNat 8 n) else none
  | .flag _ => none
  | .bytes _ => none

/-- A `u32` operand. DESIGN CHOICE (log 11): a `bool` result does not stand for one, on which R87 is silent. -/
def Value.asU32 : Value → Option Word
  | .num n => if n < 2 ^ 32 then some (BitVec.ofNat 32 n) else none
  | .flag _ => none
  | .bytes _ => none

/-- A `bool` operand is `0` or `1` (R87). DESIGN CHOICE (log 11): a `bool` result stands for one, and a number result that is
0 or 1. -/
def Value.asBool : Value → Option Bool
  | .num n => if n = 0 then some false else if n = 1 then some true else none
  | .flag b => some b
  | .bytes _ => none

/-- A `bytes` operand: no number and no `bool` stands for one. -/
def Value.asBytes : Value → Option (List Byte)
  | .bytes s => some s
  | .num _ => none
  | .flag _ => none

/-- The instruction of a command line after substitution, the operands in the order of R83. -/
def instrOf (m : Mnemonic) (vs : List Value) : Option Instr :=
  match m, vs with
  | .optPack, [ef, sb, tr, rs, rp, nm] => do
    return .optPack (← ef.asU8) (← sb.asU8) (← tr.asU8) (← rs.asU8) (← rp.asU8) (← nm.asU8)
  | .optUnpack, [opt] => do return .optUnpack (← opt.asU8)
  | .lenEncode, [n] => do return .lenEncode (← n.asU32)
  | .lenDecode, [field] => do return .lenDecode (← field.asBytes)
  | .reorder, [s] => do return .reorder (← s.asBytes)
  | .crc32Engine, [s] => do return .crc32Engine (← s.asBytes)
  | .checksum, [s] => do return .checksum (← s.asBytes)
  | .encode, [dest, src, opt, code, payload] => do
    return .encode (← dest.asU8) (← src.asU8) (← opt.asU8) (← code.asU32) (← payload.asBytes)
  | .validate, [buf] => do return .validate (← buf.asBytes)
  | .parse, [expectMsc, buf] => do return .parse (← expectMsc.asBool) (← buf.asBytes)
  | _, _ => none

/-- A `u8` result field as a value. -/
def byteValue (b : Byte) : Value := .num b.toNat

/-- A whole `bytes` result as one named field. -/
def bytesFields (name : String) (result : List Byte) : Option Fields :=
  match readBytes result with
  | some (s, []) => some [(name, .bytes s)]
  | _ => none

/-- A whole `u32` result as one named field. -/
def wordFields (name : String) (result : List Byte) : Option Fields :=
  match readU32 result with
  | some (w, []) => some [(name, .num w.toNat)]
  | _ => none

/-- The fields of a success result, by the names and types of R83. -/
def resultFields (m : Mnemonic) (result : List Byte) : Option Fields :=
  match m with
  | .optPack =>
    match result with
    | [opt] => some [("opt", byteValue opt)]
    | _ => none
  | .optUnpack =>
    match result with
    | [ef, sb, tr, rs, rp, nm] =>
      some [("ef", byteValue ef), ("sb", byteValue sb), ("tr", byteValue tr), ("rs", byteValue rs),
        ("rp", byteValue rp), ("nm", byteValue nm)]
    | _ => none
  | .lenEncode => bytesFields "field" result
  | .lenDecode => wordFields "core_len" result
  | .reorder => bytesFields "r" result
  | .crc32Engine => wordFields "crc" result
  | .checksum =>
    match result with
    | [ck] => some [("ck", byteValue ck)]
    | _ => none
  | .encode => bytesFields "frame" result
  | .validate =>
    match readBool result with
    | some (b, []) => some [("valid", .flag b)]
    | _ => none
  | .parse =>
    match result with
    | form :: dest :: src :: opt :: lsc :: msc :: rest =>
      match readBytes rest with
      | some (payload, []) =>
        some [("form", byteValue form), ("dest", byteValue dest), ("src", byteValue src), ("opt", byteValue opt),
          ("code", .num (codeOf lsc msc).toNat), ("payload", .bytes payload)]
      | _ => none
    | _ => none

/-! ## Running a program -/

/-- One request and the host's read of its response (R80), as two steps of the block. -/
def transact (req : List Byte) (s : State) : Host.Outcome State Fault Refusal :=
  match step { s with inputs := .request req :: .read :: s.inputs } with
  | .next t => step t
  | .fault r => .fault r
  | .refused r => .refused r

/-- A program in progress: the block, the host's names, the responses so far (R261), and whether the program
cannot go on (log 11). -/
structure HostRun where
  state : State
  env : Env
  responses : List (List Byte)
  stopped : Bool
  deriving DecidableEq, Repr

/-- The program cannot go on: an operand it needs does not exist, or has no encoding (log 11). -/
def HostRun.stop (h : HostRun) : HostRun := { h with stopped := true }

/-- Binds a name, or unbinds it when the command ended in an error. DESIGN CHOICE (log 11): a later line that binds the same
name replaces what the earlier one bound, and an error leaves the name with no value; R87 says neither. -/
def HostRun.bindName (h : HostRun) (bind : Option String) (fields : Option Fields) : HostRun :=
  match bind with
  | none => h
  | some name =>
    { h with env := match fields with
        | some fs => (name, fs) :: h.env.filter (fun e => e.1 ≠ name)
        | none => h.env.filter (fun e => e.1 ≠ name) }

/-- Issues one request and records its response; `m` says how a bound result is read. -/
def HostRun.issue (h : HostRun) (bind : Option String) (m : Option Mnemonic) (req : List Byte) : HostRun :=
  match transact req h.state with
  | .next t =>
    match t.delivered.getLast? with
    | some rsp =>
      let fields := match rsp, m with
        | status :: result, some mn => if status = 0x00#8 then resultFields mn result else none
        | _, _ => none
      ({ h with state := t, responses := h.responses ++ [rsp] }).bindName bind fields
    | none => h.stop
  | .fault _ => h.stop
  | .refused _ => h.stop

/-- A stored single-field byte sequence with one bit flipped (R87's example of a host action). DESIGN CHOICE (log 11): a bit
that the sequence does not have (a byte index past its end, or a bit above 7) leaves the copy equal to the original, and
the program goes on. -/
def flipBit (s : List Byte) (byte bit : Nat) : List Byte := s.modify byte (fun b => b ^^^ BitVec.twoPow 8 bit)

/-- One command line: substitute, encode, issue (R87). The program stops where an operand does not exist or has no
encoding. -/
def HostRun.command (h : HostRun) (bind : Option String) (m : Mnemonic) (operands : List Operand) : HostRun :=
  match (operands.mapM (Operand.resolve h.env)).bind (instrOf m) with
  | some i => if i.wf then h.issue bind (some m) (encode i) else h.stop
  | none => h.stop

/-- A pseudo-instruction's two commands (R88): when the first ends in an error, that error is the result and the second
is not issued. DESIGN CHOICE (log 11): a first command that succeeds with a result the host cannot read, which is only
CRC32_FULL's REORDER of 2^32 bytes or more (log 9), ends the pseudo-instruction in the same way, with that response as its
last, and the program goes on. -/
def HostRun.pseudo (h : HostRun) : List Line → HostRun
  | [.command bind₁ m₁ operands₁, .command bind₂ m₂ operands₂] =>
    let h₁ := h.command bind₁ m₁ operands₁
    if h₁.stopped then h₁
    else if h₁.env.value pseudoName = none then h₁.bindName bind₂ none
    else h₁.command bind₂ m₂ operands₂
  | _ => h.stop

/-- One line of a program. -/
def HostRun.line (h : HostRun) (l : Line) : HostRun :=
  if h.stopped then h
  else
    match l with
    | .command bind m operands => h.command bind m operands
    | .frame bind operands => h.pseudo (Line.expand (.frame bind operands))
    | .crc32Full bind operand => h.pseudo (Line.expand (.crc32Full bind operand))
    | .hostRemark _ => h
    | .hostRequest req => h.issue none none req
    | .hostFlip target source byte bit =>
      match h.env.value source with
      | some (.bytes s) => h.bindName (some target) (some [("value", .bytes (flipBit s byte bit))])
      | _ => h.stop

/-- A whole program, from a state with no response pending (R261: its outcome is the list of responses). -/
def runProgram (program : List Line) (s : State) : HostRun := program.foldl HostRun.line ⟨s, [], [], false⟩

end Sys2Proof.Machine
end

