-- ==== Sys2Proof/Safety.lean ====
section
/-! DEFINITION. What counts as a safe state and a safe run, in the terms the statements use. -/

namespace Sys2Proof

open Sys2Proof.Machine

/-- Between commands the port is `Idle` and neither buffer exists (spec 10_state R25, R26, R29, R30). -/
abbrev Quiescent (s : State) : Prop := s.port = .idle ∧ s.reorderBuf = none ∧ s.frameBuf = none

/-- A response the block may give (60_exceptions R210, R211; 30_encoding R84): `0x00` and a result, or exactly a status
`0x01` to `0x08` and a detail byte. -/
def legalResponse : List Byte → Bool
  | [] => false
  | status :: rest => status = 0x00#8 || (status.toNat ≤ 8 && rest.length = 1)

/-- The block's invariant: quiescent, and every response it has given is a legal one. -/
abbrev PortInvariant (s : State) : Prop :=
  Quiescent s ∧ (∀ r ∈ s.pending, legalResponse r = true) ∧ (∀ r ∈ s.delivered, legalResponse r = true)

/-- A run that never stops: after any number of steps there is a next state. -/
def RunsForever (s : State) : Prop := ∀ k, ∃ t, Host.Core.run Sys2Proof.core k s = .next t

/-- The command `i`, performed in `s`, COMPLETES with the response `rsp`: `exec` answers a next state in which `rsp` stands
behind the responses pending before, the port is `Idle`, the buffers do not exist, and nothing else that persists has
changed (10_state R20, R29; 60_exceptions R210). Nothing is said of the CRC register, which is unspecified between commands
(R24, log 2), nor of the model's draw counter (log 3). -/
def Answers (i : Instr) (s : State) (rsp : List Byte) : Prop :=
  ∃ t, exec i s = .next t ∧ t.pending = s.pending ++ [rsp] ∧ t.port = .idle ∧ t.reorderBuf = none ∧
    t.frameBuf = none ∧ t.delivered = s.delivered ∧ t.inputs = s.inputs ∧ t.cfg = s.cfg

/-- The same of a whole step, when the host has issued the request `req` next: it is taken off the inputs, and `rsp` is its
one response (30_encoding R80). -/
def PortAnswers (req : List Byte) (s : State) (rsp : List Byte) : Prop :=
  ∃ t, step { s with inputs := .request req :: s.inputs } = .next t ∧ t.pending = s.pending ++ [rsp] ∧
    t.port = .idle ∧ t.reorderBuf = none ∧ t.frameBuf = none ∧ t.delivered = s.delivered ∧ t.inputs = s.inputs ∧
    t.cfg = s.cfg

/-- A number below 2^32 as four bytes, least significant first (30_encoding R81), by division. -/
def le32 (n : Nat) : List Byte :=
  [BitVec.ofNat 8 n, BitVec.ofNat 8 (n / 256), BitVec.ofNat 8 (n / 65536), BitVec.ofNat 8 (n / 16777216)]

/-- `core_len` of a message (43_frame R172): six bytes, one more when the code needs its `msc` (R171), and the payload. -/
def messageCoreLength (code : Word) (payload : List Byte) : Nat :=
  6 + (if 255 < code.toNat then 1 else 0) + payload.length

/-- The frame of a message without its checksum byte, as the buffer listing of 30_encoding R60 orders it. -/
def wireBody (dest src opt : Byte) (code : Word) (payload : List Byte) : List Byte :=
  let coreLen := messageCoreLength code payload
  [0x48#8, 0x5A#8]
    ++ (if coreLen ≤ 255 then [BitVec.ofNat 8 (coreLen - 3)]
        else [BitVec.ofNat 8 ((coreLen - 4) % 256), BitVec.ofNat 8 ((coreLen - 4) / 256)])
    ++ [dest, src, opt, BitVec.ofNat 8 (code.toNat % 256)]
    ++ (if 255 < code.toNat then [BitVec.ofNat 8 (code.toNat / 256)] else []) ++ payload

/-- The whole frame of a message (30_encoding R60, R64): the body and its checksum byte. -/
def wireFrame (dest src opt : Byte) (code : Word) (payload : List Byte) : List Byte :=
  wireBody dest src opt code payload ++ [checksum (wireBody dest src opt code payload)]

/-- ENCODE's own conditions for success (43_frame R174): the code, the core length and the frame's size are in range. -/
def Encodable (cap : Capacity) (dest src opt : Byte) (code : Word) (payload : List Byte) : Prop :=
  code.toNat ≤ 65535 ∧ messageCoreLength code payload ≤ 65539 ∧
    cap.exceededBy (wireFrame dest src opt code payload).length = false

end Sys2Proof
end

