-- ==== Sys2Proof/Certificates/Slice0/Obligations.lean ====
section
/-! DEFINITION. The statements for the provers. `Answers i s rsp` (Safety.lean) says that the command completes with a
next state, gives the response and leaves everything else that persists as it was. -/

open Sys2Proof Sys2Proof.Machine

/-! ## Reset, the invariant, and runs -/

/-- 70_reset R251 and 10_state R30: what reset leaves. Three values are the model's own: `delivered` (log 6), `inputs` (log 5),
and FRAME_CAPACITY, which 00_scope R7 leaves open and State.reset takes at its reference value (log 4, a DESIGN CHOICE). The
CRC register's value is not stated: it is unspecified. -/
def Obligations.ResetLeavesIdlePortAndNoBuffers : Prop :=
  State.reset.port = .idle ∧ State.reset.pending = [] ∧ State.reset.reorderBuf = none ∧ State.reset.frameBuf = none ∧
    State.reset.delivered = [] ∧ State.reset.inputs = [] ∧ State.reset.cfg.frameCapacity = .unbounded

/-- The invariant holds right after reset. -/
def Obligations.ResetStateMeetsInvariant : Prop := PortInvariant State.reset

/-- 10_state R25, R26, R29; 60_exceptions R210, R211: every step keeps the port `Idle`, the buffers absent, and every response
given a legal one (status `0x09` to `0xFF` is never produced). -/
def Obligations.EveryStepKeepsQuiescenceAndLegalResponses : Prop :=
  ∀ s t, PortInvariant s → step s = .next t → PortInvariant t

/-- 60_exceptions R210, R218, R219 and 70_reset R260: no error, input or request ever stops a quiescent block. -/
def Obligations.QuiescentBlockRunsForever : Prop := ∀ s, Quiescent s → RunsForever s

/-- From 20_memory R52: a block given any list of requests answers each with one response, in request order, and each response
is a function of its own request and FRAME_CAPACITY alone. That the requests wait in a list is the model's choice (log 5), and
that a request is served while earlier responses are still unread is the model's reading (log 6, DEDUCED): R52 says neither. -/
def Obligations.ResponsesDependOnRequestAndCapacityInOrder : Prop :=
  ∃ f : Capacity → List Byte → List Byte, ∀ (reqs : List (List Byte)) (s : State),
    s.port = .idle → s.inputs = reqs.map .request →
      ∃ t, Host.Core.run Sys2Proof.core reqs.length s = .next t ∧ t.inputs = [] ∧
        t.pending = s.pending ++ reqs.map (f s.cfg.frameCapacity) ∧ t.delivered = s.delivered ∧ t.cfg = s.cfg

/-- 10_state R24, R28; 70_reset R254: what the CRC register and the buffers held before a step is never observable. -/
def Obligations.TransientStateIsNeverObserved : Prop :=
  ∀ s t crc rb fb, step s = .next t →
    ∃ t', step { s with crc := crc, reorderBuf := rb, frameBuf := fb } = .next t' ∧ t'.port = t.port ∧
      t'.pending = t.pending ∧ t'.delivered = t.delivered ∧ t'.inputs = t.inputs ∧ t'.cfg = t.cfg ∧ t'.draws = t.draws

/-! ## The step -/

/-- 30_encoding R85, last line: a step on a request that decodes performs the decoded command, and a well-formed command's own
request is one that decodes to it. -/
def Obligations.StepPerformsDecodedCommand : Prop :=
  ∀ s rest i, s.port = .idle →
    (∀ req, s.inputs = .request req :: rest → decode s.cfg.frameCapacity req = .ok i →
      step s = exec i { s with inputs := rest }) ∧
    (i.wf = true → i.fits s.cfg.frameCapacity = true → s.inputs = .request (encode i) :: rest →
      step s = exec i { s with inputs := rest })

/-- 60_exceptions R215 (1) to (4) and 30_encoding R85: which error a request gets that does not reach its command, and that any
other request gets its command's response. -/
def Obligations.DecodeErrorsFollowPriority : Prop :=
  ∀ s, s.port = .idle →
    PortAnswers [] s [0x08#8, 0x00#8] ∧
    (∀ op operands, (op.toNat = 0 ∨ 11 ≤ op.toNat) → PortAnswers (op :: operands) s [0x07#8, op]) ∧
    (∀ op operands, 1 ≤ op.toNat → op.toNat ≤ 10 → (∀ i, i.wf = true → encode i ≠ op :: operands) →
      PortAnswers (op :: operands) s [0x08#8, 0x00#8]) ∧
    (∀ i, i.wf = true → i.fits s.cfg.frameCapacity = false → PortAnswers (encode i) s [0x06#8, 0x00#8]) ∧
    (∀ i rsp, i.wf = true → i.fits s.cfg.frameCapacity = true → Answers i s rsp → PortAnswers (encode i) s rsp)

/-- 30_encoding R85, closing paragraph: no response to a request is longer than FRAME_CAPACITY + 8 bytes. -/
def Obligations.ResponseLengthIsBounded : Prop :=
  ∀ s req cap, s.port = .idle → s.cfg.frameCapacity = .atMost cap →
    ∃ rsp, PortAnswers req s rsp ∧ rsp.length ≤ cap + 8

/-- From 60_exceptions R219 and 20_memory R52 (b): with no input nothing happens; a read takes the oldest response pending, and
nothing when none is. Three points are the model's: that a step with no input answers the same state (log 5, a DESIGN
CHOICE), that the read is an input of its own (log 6, read from 70_reset R252), and that the CRC register keeps its value
over both (log 2: R24 and 93 I1 leave it any value between commands). -/
def Obligations.IdleStepStaysAndReadTakesOldest : Prop :=
  (∀ s, s.inputs = [] → step s = .next s) ∧
  (∀ s rest, s.inputs = .read :: rest →
    ∃ t, step s = .next t ∧ t.pending = s.pending.tail ∧ t.delivered = s.delivered ++ s.pending.take 1 ∧
      t.inputs = rest ∧ t.port = s.port ∧ t.cfg = s.cfg ∧ t.crc = s.crc ∧ t.reorderBuf = s.reorderBuf ∧
      t.frameBuf = s.frameBuf)

/-- From 70_reset R250, R251, R252: the reset input returns the port to `Idle` from any state, leaves nothing pending, and
delivers each response that was pending unchanged or not at all, never another and never out of order. Two points are the
model's reading (log 7, DEDUCED): that each of several pending responses is drawn on its own, and that the inputs waiting
behind the reset stay. -/
def Obligations.ResetInputReturnsToIdle : Prop :=
  ∀ s rest, s.inputs = .reset :: rest →
    ∃ t kept, step s = .next t ∧ t.port = .idle ∧ t.pending = [] ∧ t.reorderBuf = none ∧ t.frameBuf = none ∧
      kept.Sublist s.pending ∧ t.delivered = s.delivered ++ kept ∧ t.inputs = rest ∧ t.cfg = s.cfg

/-- The model's choice (log 10): a request at a port that shows `Busy` between steps stops with a fault. -/
def Obligations.BusyPortTakesNoRequest : Prop :=
  ∀ s req rest, s.port = .busy → s.inputs = .request req :: rest → step s = .fault .portBusy

/-- From 70_reset R257 and 93 I3: a request the host disturbs gets a response, and the block stays usable. R257 and I3 allow any
status and result: that there is exactly one response, and that it is a legal one, is the model's reading of 60_exceptions
R210 and R211 (log 8, DEDUCED). -/
def Obligations.DisturbedRequestLeavesBlockUsable : Prop :=
  ∀ s rest, s.port = .idle → s.inputs = .disturbedRequest :: rest →
    ∃ t rsp, step s = .next t ∧ legalResponse rsp = true ∧ t.pending = s.pending ++ [rsp] ∧ Quiescent t ∧
      t.delivered = s.delivered ∧ t.inputs = rest ∧ t.cfg = s.cfg

/-- 60_exceptions R210: a command ends in exactly one of two ways, and nothing that persists but its response changes. -/
def Obligations.EveryCommandEndsInOneResponse : Prop :=
  ∀ i s, ∃ rsp, Answers i s rsp ∧
    (rsp.head? = some 0x00#8 ∨ ∃ status detail, status ≠ 0x00#8 ∧ status.toNat ≤ 8 ∧ rsp = [status, detail])

/-- 60_exceptions R214: the error statuses each command itself can raise. -/
def Obligations.ErrorsOfEachCommand : Prop :=
  ∀ i s, ∃ rsp, Answers i s rsp ∧ (rsp.head? = some 0x00#8 ∨ ∃ status detail, rsp = [status, detail] ∧
    status ∈ (match i with
      | .optPack _ _ _ _ _ _ => [0x01#8]
      | .optUnpack _ => []
      | .lenEncode _ => [0x05#8]
      | .lenDecode _ => [0x05#8]
      | .reorder _ => []
      | .crc32Engine _ => []
      | .checksum _ => []
      | .encode _ _ _ _ _ => [0x02#8, 0x05#8, 0x06#8]
      | .validate _ => [0x03#8]
      | .parse _ _ => [0x03#8, 0x04#8]))

/-! ## Encoding -/

/-- 30_encoding R80 to R85: every well-formed command whose operand fits is read back from its own request. -/
def Obligations.DecodeOfEncodeIsIdentity : Prop :=
  ∀ cap i, i.wf = true → i.fits cap = true → decode cap (encode i) = .ok i

/-- 30_encoding R81, R85: each command has one request only: what decodes to a command is that command's own request. -/
def Obligations.EveryDecodedRequestIsCanonical : Prop :=
  ∀ cap req i, decode cap req = .ok i → encode i = req ∧ i.wf = true ∧ i.fits cap = true

/-- 30_encoding R82: the opcode map, and the illegal opcodes; the opcode is the whole first byte of a request, of the one a
command is encoded as and of any that is decoded. -/
def Obligations.OpcodeMapIsTheTable : Prop :=
  (Mnemonic.optPack.opcode = 0x01#8 ∧ Mnemonic.optUnpack.opcode = 0x02#8 ∧ Mnemonic.lenEncode.opcode = 0x03#8 ∧
    Mnemonic.lenDecode.opcode = 0x04#8 ∧ Mnemonic.reorder.opcode = 0x05#8 ∧ Mnemonic.crc32Engine.opcode = 0x06#8 ∧
    Mnemonic.checksum.opcode = 0x07#8 ∧ Mnemonic.encode.opcode = 0x08#8 ∧ Mnemonic.validate.opcode = 0x09#8 ∧
    Mnemonic.parse.opcode = 0x0A#8) ∧
  (∀ op m, Mnemonic.ofOpcode op = some m ↔ m.opcode = op) ∧
  (∀ op, Mnemonic.ofOpcode op = none ↔ op.toNat = 0 ∨ 11 ≤ op.toNat) ∧
  (∀ i, (encode i).head? = some i.mnemonic.opcode) ∧
  (∀ cap op operands i, decode cap (op :: operands) = .ok i → i.mnemonic.opcode = op) ∧
  (∀ cap op operands, (op.toNat = 0 ∨ 11 ≤ op.toNat) → decode cap (op :: operands) = .error ⟨.illegalCommand, op⟩)

/-- 30_encoding R81: the serialization of the port's types, in both directions. -/
def Obligations.PortTypesAreSerializedLittleEndian : Prop :=
  (∀ v : Half, u16Bytes v = [BitVec.ofNat 8 v.toNat, BitVec.ofNat 8 (v.toNat / 256)]) ∧
  (∀ v : Word, u32Bytes v = le32 v.toNat) ∧ boolByte false = 0x00#8 ∧ boolByte true = 0x01#8 ∧
  (∀ b rest, 2 ≤ b.toNat → readBool (b :: rest) = none) ∧
  (∀ s : List Byte, s.length < 2 ^ 32 → bytesField s = le32 s.length ++ s) ∧
  (∀ (s rest : List Byte), s.length < 2 ^ 32 → readBytes (le32 s.length ++ s ++ rest) = some (s, rest))

/-- Requests written out from 30_encoding R82, R83 and 95_test_vectors (P1, P3, P5, V24, V30, V148) decode to the commands they
stand for. -/
def Obligations.WrittenRequestsDecodeToTheirCommands : Prop :=
  decode .unbounded [0x01, 0x00, 0x00, 0x02, 0x00, 0x01, 0x00] = .ok (.optPack 0 0 2 0 1 0) ∧
  decode .unbounded [0x02, 0x22] = .ok (.optUnpack 0x22) ∧
  decode .unbounded [0x03, 0x04, 0x00, 0x01, 0x00] = .ok (.lenEncode 65540) ∧
  decode .unbounded [0x04, 0x02, 0x00, 0x00, 0x00, 0xFD, 0x00] = .ok (.lenDecode [0xFD, 0x00]) ∧
  decode .unbounded [0x05, 0x01, 0x00, 0x00, 0x00, 0xAA] = .ok (.reorder [0xAA]) ∧
  decode .unbounded [0x06, 0x01, 0x00, 0x00, 0x00, 0x80] = .ok (.crc32Engine [0x80]) ∧
  decode .unbounded [0x07, 0x00, 0x00, 0x00, 0x00] = .ok (.checksum []) ∧
  decode .unbounded [0x08, 0x02, 0x01, 0x22, 0x6D, 0x07, 0x00, 0x00, 0x00, 0x00, 0x00, 0x00]
    = .ok (.encode 2 1 0x22 1901 []) ∧
  decode .unbounded [0x09, 0x03, 0x00, 0x00, 0x00, 0x48, 0x5A, 0x03] = .ok (.validate [0x48, 0x5A, 0x03]) ∧
  decode .unbounded [0x0A, 0x01, 0x01, 0x00, 0x00, 0x00, 0x48] = .ok (.parse true [0x48])

/-- The model's table words (logs 5, 12): the opcode byte alone, its operand bytes zero, decodes to its row's command, and a block in
any state that is given that word runs exactly that command. -/
def Obligations.TableWordsRunTheirCommand : Prop :=
  ∀ (s : State) (w : Nat), 1 ≤ w → w ≤ 10 → ∃ i, decodeTableWord 8 w = some i ∧ i.mnemonic.opcode.toNat = w ∧
    step (s.withFetchWord 8 w) = exec i { s with port := .idle }

/-- 30_encoding R89: the worked request and its response, on a block whose FRAME_CAPACITY admits the frame. -/
def Obligations.WorkedEncodeExample : Prop :=
  encode (.encode 2 1 0x22 1901 [])
    = [0x08, 0x02, 0x01, 0x22, 0x6D, 0x07, 0x00, 0x00, 0x00, 0x00, 0x00, 0x00] ∧
  ∀ s, s.port = .idle → s.cfg.frameCapacity.exceededBy 9 = false →
    PortAnswers [0x08, 0x02, 0x01, 0x22, 0x6D, 0x07, 0x00, 0x00, 0x00, 0x00, 0x00, 0x00] s
      [0x00, 0x09, 0x00, 0x00, 0x00, 0x48, 0x5A, 0x04, 0x02, 0x01, 0x22, 0x6D, 0x07, 0xA5]

/-! ## The options packer -/

/-- 40_options R101: OPT_PACK packs six fields that fit, and otherwise reports the first that does not, in packing order. -/
def Obligations.OptPackPacksOrReportsFirstBadField : Prop :=
  ∀ s (ef sb tr rs rp nm : Byte),
    (ef.toNat < 2 → sb.toNat < 2 → tr.toNat < 4 → rs.toNat < 2 → rp.toNat < 4 → nm.toNat < 2 →
      Answers (.optPack ef sb tr rs rp nm) s [0x00#8, BitVec.ofNat 8
        (128 * ef.toNat + 64 * sb.toNat + 16 * tr.toNat + 8 * rs.toNat + 2 * rp.toNat + nm.toNat)]) ∧
    (2 ≤ ef.toNat → Answers (.optPack ef sb tr rs rp nm) s [0x01#8, 0x00#8]) ∧
    (ef.toNat < 2 → 2 ≤ sb.toNat → Answers (.optPack ef sb tr rs rp nm) s [0x01#8, 0x01#8]) ∧
    (ef.toNat < 2 → sb.toNat < 2 → 4 ≤ tr.toNat → Answers (.optPack ef sb tr rs rp nm) s [0x01#8, 0x02#8]) ∧
    (ef.toNat < 2 → sb.toNat < 2 → tr.toNat < 4 → 2 ≤ rs.toNat →
      Answers (.optPack ef sb tr rs rp nm) s [0x01#8, 0x03#8]) ∧
    (ef.toNat < 2 → sb.toNat < 2 → tr.toNat < 4 → rs.toNat < 2 → 4 ≤ rp.toNat →
      Answers (.optPack ef sb tr rs rp nm) s [0x01#8, 0x04#8]) ∧
    (ef.toNat < 2 → sb.toNat < 2 → tr.toNat < 4 → rs.toNat < 2 → rp.toNat < 4 → 2 ≤ nm.toNat →
      Answers (.optPack ef sb tr rs rp nm) s [0x01#8, 0x05#8])

/-- 40_options R104: OPT_UNPACK splits any byte into its six fields. -/
def Obligations.OptUnpackSplitsEveryByte : Prop :=
  ∀ s (opt : Byte), Answers (.optUnpack opt) s
    [0x00#8, BitVec.ofNat 8 (opt.toNat / 128), BitVec.ofNat 8 (opt.toNat / 64 % 2), BitVec.ofNat 8 (opt.toNat / 16 % 4),
      BitVec.ofNat 8 (opt.toNat / 8 % 2), BitVec.ofNat 8 (opt.toNat / 2 % 4), BitVec.ofNat 8 (opt.toNat % 2)]

/-- 40_options R105: the round trip in both directions, which makes OPT_PACK a bijection between the accepted field sets and
the 256 bytes. -/
def Obligations.PackAndUnpackAreInverse : Prop :=
  (∀ s (ef sb tr rs rp nm opt : Byte), Answers (.optPack ef sb tr rs rp nm) s [0x00#8, opt] →
    Answers (.optUnpack opt) s [0x00#8, ef, sb, tr, rs, rp, nm]) ∧
  (∀ s (opt ef sb tr rs rp nm : Byte), Answers (.optUnpack opt) s [0x00#8, ef, sb, tr, rs, rp, nm] →
    Answers (.optPack ef sb tr rs rp nm) s [0x00#8, opt])

/-! ## The length field -/

/-- 41_length R121: LEN_ENCODE's two forms and its range. -/
def Obligations.LenEncodeChoosesFormByCoreLength : Prop :=
  ∀ s (n : Word),
    (6 ≤ n.toNat → n.toNat ≤ 255 → Answers (.lenEncode n) s ([0x00#8] ++ le32 1 ++ [BitVec.ofNat 8 (n.toNat - 3)])) ∧
    (256 ≤ n.toNat → n.toNat ≤ 65539 → Answers (.lenEncode n) s
      ([0x00#8] ++ le32 2 ++ [BitVec.ofNat 8 ((n.toNat - 4) % 256), BitVec.ofNat 8 ((n.toNat - 4) / 256)])) ∧
    (n.toNat < 6 ∨ 65539 < n.toNat → Answers (.lenEncode n) s [0x05#8, 0x00#8])

/-- 41_length R123: what a receiver computes from the field. -/
def Obligations.LengthFieldDecodesToCoreLength : Prop :=
  ∀ s (n : Word), 6 ≤ n.toNat → n.toNat ≤ 65539 →
    (n.toNat ≤ 255 → ∃ len : Byte, Answers (.lenEncode n) s ([0x00#8] ++ le32 1 ++ [len]) ∧ len.toNat = n.toNat - 3) ∧
    (255 < n.toNat → ∃ lsl msl : Byte, Answers (.lenEncode n) s ([0x00#8] ++ le32 2 ++ [lsl, msl]) ∧
      lsl.toNat + msl.toNat * 256 = n.toNat - 4)

/-- 41_length R125: LEN_DECODE accepts exactly the canonical fields. -/
def Obligations.LenDecodeAcceptsCanonicalFieldsOnly : Prop :=
  (∀ s (len : Byte), 3 ≤ len.toNat → len.toNat ≤ 252 →
    Answers (.lenDecode [len]) s ([0x00#8] ++ le32 (len.toNat + 3))) ∧
  (∀ s (len : Byte), len.toNat < 3 ∨ 252 < len.toNat → Answers (.lenDecode [len]) s [0x05#8, 0x00#8]) ∧
  (∀ s (lsl msl : Byte), 252 ≤ lsl.toNat + 256 * msl.toNat →
    Answers (.lenDecode [lsl, msl]) s ([0x00#8] ++ le32 (lsl.toNat + 256 * msl.toNat + 4))) ∧
  (∀ s (lsl msl : Byte), lsl.toNat + 256 * msl.toNat < 252 → Answers (.lenDecode [lsl, msl]) s [0x05#8, 0x00#8]) ∧
  (∀ s (field : List Byte), field.length ≠ 1 → field.length ≠ 2 → Answers (.lenDecode field) s [0x05#8, 0x00#8])

/-- 41_length R127, first two sentences: LEN_ENCODE and LEN_DECODE are inverse on what they accept, and the form is told by
`core_len`. -/
def Obligations.LenEncodeAndDecodeAreInverse : Prop :=
  (∀ s (n : Word) (field : List Byte), Answers (.lenEncode n) s ([0x00#8] ++ le32 field.length ++ field) →
    Answers (.lenDecode field) s ([0x00#8] ++ le32 n.toNat) ∧ (field.length = 1 ↔ n.toNat ≤ 255) ∧
      (field.length = 2 ↔ 255 < n.toNat)) ∧
  (∀ s (field : List Byte) (n : Word), Answers (.lenDecode field) s ([0x00#8] ++ le32 n.toNat) →
    Answers (.lenEncode n) s ([0x00#8] ++ le32 field.length ++ field))

/-! ## The checksum -/

/-- 42_checksum R141: REORDER's result, byte by byte: in each group of four, byte `j` is the operand's byte `3 - j`, zero past
the operand's end. (The count of a result of 2^32 bytes or more is a free value, log 9.) -/
def Obligations.ReorderReversesPaddedGroups : Prop :=
  ∀ s (seq : List Byte), ∃ (count result : List Byte), Answers (.reorder seq) s ([0x00#8] ++ count ++ result) ∧
    count.length = 4 ∧ (result.length < 2 ^ 32 → count = le32 result.length) ∧
    result.length = 4 * ((seq.length + 3) / 4) ∧
    ∀ g j, j < 4 → 4 * g + j < result.length → result[4 * g + j]? = some (seq.getD (4 * g + (3 - j)) 0x00#8)

/-- 42_checksum R142: the reorder laws, and the checksum of one complete group. -/
def Obligations.ReorderLaws : Prop :=
  (∀ seq : List Byte, seq.length % 4 = 0 → reorder (reorder seq) = seq) ∧
  (∀ (seq : List Byte) (j : Nat), 0 < seq.length % 4 → j ≤ 4 - seq.length % 4 →
    reorder (seq ++ List.replicate j 0x00#8) = reorder seq) ∧
  (∀ a b c d : Byte, checksum [a, b, c, d] = lowByte (crc32 [d, c, b, a]))

/-- 42_checksum R144: the byte step is eight bit steps from the register XOR the byte in bits 31:24; in each, bit `k` of the new
register is bit `k - 1` of the old (0 for `k = 0`), XOR the polynomial's bit `k` when the old bit 31 was set. -/
def Obligations.CrcByteStepIsEightTestedShifts : Prop :=
  ∀ (crc : Word) (b : Byte), ∃ w : Nat → Word,
    (∀ k, k < 32 → (w 0).getLsbD k = (crc.getLsbD k ^^ (decide (24 ≤ k) && b.getLsbD (k - 24)))) ∧
    (∀ n, n < 8 → ∀ k, k < 32 → (w (n + 1)).getLsbD k
      = ((decide (0 < k) && (w n).getLsbD (k - 1)) ^^ ((w n).getLsbD 31 && (0x04C11DB7#32).getLsbD k))) ∧
    crcStep crc b = w 8

/-- 42_checksum R143, R148: CRC32_ENGINE returns the register run over its operand as given, from `0xFFFFFFFF`, byte by byte, with no
final XOR. -/
def Obligations.Crc32EngineReturnsWholeRegister : Prop :=
  crc32 [] = 0xFFFFFFFF#32 ∧ (∀ (r : List Byte) (b : Byte), crc32 (r ++ [b]) = crcStep (crc32 r) b) ∧
  (∀ s (seq : List Byte), Answers (.crc32Engine seq) s ([0x00#8] ++ le32 (crc32 seq).toNat))

/-- 42_checksum R146: the derived check values. -/
def Obligations.Crc32CheckValues : Prop :=
  crc32 [] = 0xFFFFFFFF#32 ∧ crc32 [0x00#8] = 0x4E08BFB4#32 ∧
  crc32 [0x00#8, 0x00#8, 0x00#8, 0x00#8] = 0xC704DD7B#32 ∧
  crc32 [0x31#8, 0x32#8, 0x33#8, 0x34#8, 0x35#8, 0x36#8, 0x37#8, 0x38#8, 0x39#8] = 0x0376E6E7#32

/-- 42_checksum R149, R152: CHECKSUM returns bits 7:0 of the register run over the reordered operand, for an operand of any length. -/
def Obligations.ChecksumIsLowByteOfReorderedCrc : Prop :=
  ∀ s (seq : List Byte), Answers (.checksum seq) s [0x00#8, BitVec.ofNat 8 ((crc32 (reorder seq)).toNat % 256)]

/-- 42_checksum R153: CHECKSUM is the composition of the exposed commands: CRC32_ENGINE of REORDER's result, low byte first. -/
def Obligations.ChecksumIsComposedOfItsCommands : Prop :=
  ∀ s (seq : List Byte), ∃ (count r : List Byte) (b0 b1 b2 b3 : Byte),
    Answers (.reorder seq) s ([0x00#8] ++ count ++ r) ∧ count.length = 4 ∧
    Answers (.crc32Engine r) s [0x00#8, b0, b1, b2, b3] ∧ Answers (.checksum seq) s [0x00#8, b0]

/-- 42_checksum R154: CHECKSUM is a function of its operand alone, and zero bytes that only fill the last group do not change it. -/
def Obligations.ChecksumIgnoresPaddingZeros : Prop :=
  ∃ f : List Byte → Byte, (∀ s seq, Answers (.checksum seq) s [0x00#8, f seq]) ∧
    ∀ (seq : List Byte) (j : Nat), 0 < seq.length % 4 → j ≤ 4 - seq.length % 4 →
      f (seq ++ List.replicate j 0x00#8) = f seq

/-- 42_checksum R155, "The CRC is affine over GF(2)": of three sequences of one length, the register of their XOR is the XOR of
their registers. -/
def Obligations.CrcIsAffine : Prop :=
  ∀ a b c : List Byte, a.length = b.length → b.length = c.length →
    crc32 (List.zipWith (· ^^^ ·) (List.zipWith (· ^^^ ·) a b) c) = crc32 a ^^^ crc32 b ^^^ crc32 c

/-- 42_checksum R155: one flipped bit changes the register by a value that depends only on the bit and on the byte's distance from the
end of the reordered sequence; below distance 240 the checksum misses exactly the eight flips R155 lists. -/
def Obligations.FlippedBitChangesChecksumByDistance : Prop :=
  ∃ δ : Nat → Nat → Word, ∀ (seq : List Byte) (i j : Nat), i < seq.length → j < 8 →
    let d := 4 * ((seq.length + 3) / 4) - 1 - (4 * (i / 4) + (3 - i % 4))
    crc32 (reorder (flipBit seq i j)) = crc32 (reorder seq) ^^^ δ d j ∧
    (d < 240 → (checksum (flipBit seq i j) = checksum seq ↔
      (d, j) ∈ [(22, 4), (22, 5), (54, 0), (116, 0), (116, 1), (116, 2), (239, 6), (239, 7)]))

/-! ## The frame codec -/

/-- 43_frame R174: ENCODE builds the frame of 30_encoding R60, and raises its three errors in order. -/
def Obligations.EncodeBuildsTheWireFrame : Prop :=
  ∀ s (dest src opt : Byte) (code : Word) (payload : List Byte),
    (65535 < code.toNat → Answers (.encode dest src opt code payload) s [0x02#8, 0x00#8]) ∧
    (code.toNat ≤ 65535 → 65539 < messageCoreLength code payload →
      Answers (.encode dest src opt code payload) s [0x05#8, 0x00#8]) ∧
    (code.toNat ≤ 65535 → messageCoreLength code payload ≤ 65539 →
      s.cfg.frameCapacity.exceededBy (wireFrame dest src opt code payload).length = true →
      Answers (.encode dest src opt code payload) s [0x06#8, 0x00#8]) ∧
    (Encodable s.cfg.frameCapacity dest src opt code payload →
      Answers (.encode dest src opt code payload) s
        ([0x00#8] ++ le32 (wireFrame dest src opt code payload).length ++ wireFrame dest src opt code payload))

/-- 30_encoding R62, R63, R64: where every field of an ENCODE result stands, how its length field and its length agree, and what its
last byte is. -/
def Obligations.EncodedFrameLayout : Prop :=
  ∀ s (dest src opt : Byte) (code : Word) (payload : List Byte),
    Encodable s.cfg.frameCapacity dest src opt code payload →
    ∃ f : List Byte, Answers (.encode dest src opt code payload) s ([0x00#8] ++ le32 f.length ++ f) ∧
      let m := if 255 < code.toNat then 1 else 0
      let coreLen := 6 + m + payload.length
      f[0]? = some 0x48#8 ∧ f[1]? = some 0x5A#8 ∧ f[f.length - 1]? = some (checksum (f.take (f.length - 1))) ∧
      (coreLen ≤ 255 →
        f.length = coreLen + 2 ∧ 8 ≤ f.length ∧ f.length ≤ 257 ∧ f[2]? = some (BitVec.ofNat 8 (f.length - 5)) ∧
        f[3]? = some dest ∧ f[4]? = some src ∧ f[5]? = some opt ∧ f[6]? = some (BitVec.ofNat 8 (code.toNat % 256)) ∧
        (m = 1 → f[7]? = some (BitVec.ofNat 8 (code.toNat / 256))) ∧
        ∀ k, k < payload.length → f[7 + m + k]? = payload[k]?) ∧
      (255 < coreLen →
        f.length = coreLen + 3 ∧ 259 ≤ f.length ∧ f.length ≤ 65542 ∧
        (∃ lsl msl : Byte, f[2]? = some lsl ∧ f[3]? = some msl ∧ lsl.toNat + 256 * msl.toNat = f.length - 7) ∧
        f[4]? = some dest ∧ f[5]? = some src ∧ f[6]? = some opt ∧ f[7]? = some (BitVec.ofNat 8 (code.toNat % 256)) ∧
        (m = 1 → f[8]? = some (BitVec.ofNat 8 (code.toNat / 256))) ∧
        ∀ k, k < payload.length → f[8 + m + k]? = payload[k]?)

/-- 43_frame R183, R184, R185: VALIDATE checks the minimum length and the checksum and nothing else; a buffer that differs from a valid
one in its last byte alone is invalid. -/
def Obligations.ValidateChecksLengthAndChecksumOnly : Prop :=
  ∀ s (buf : List Byte),
    (buf.length < 8 → Answers (.validate buf) s [0x03#8, 0x00#8]) ∧
    (∀ (body : List Byte) (last : Byte), 8 ≤ buf.length → buf = body ++ [last] →
      (checksum body = last → Answers (.validate buf) s [0x00#8, 0x01#8]) ∧
      (checksum body ≠ last → Answers (.validate buf) s [0x00#8, 0x00#8]) ∧
      (∀ other, Answers (.validate buf) s [0x00#8, 0x01#8] → other ≠ last →
        Answers (.validate (body ++ [other])) s [0x00#8, 0x00#8]))

/-- 43_frame R186: VALIDATE returns true on every frame ENCODE produces, in any state. -/
def Obligations.ValidateAcceptsEveryEncodedFrame : Prop :=
  ∀ s s' (dest src opt : Byte) (code : Word) (payload f : List Byte),
    Answers (.encode dest src opt code payload) s ([0x00#8] ++ le32 f.length ++ f) →
    Answers (.validate f) s' [0x00#8, 0x01#8]

/-- 43_frame R187: no single-bit flip of a valid buffer of fewer than 22 bytes goes undetected, and the 22-byte frame of R187 has two
that VALIDATE misses and PARSE rejects. -/
def Obligations.ShortestUndetectedFlipNeeds22Bytes : Prop :=
  (∀ s (buf : List Byte) (i j : Nat), buf.length < 22 → Answers (.validate buf) s [0x00#8, 0x01#8] →
    i < buf.length → j < 8 → Answers (.validate (flipBit buf i j)) s [0x00#8, 0x00#8]) ∧
  (∀ s, s.cfg.frameCapacity.exceededBy 22 = false →
    ∃ f : List Byte, f = [0x48, 0x5A, 0x11, 0x02, 0x01, 0x22, 0x6D, 0x07, 0x01, 0x02, 0x03, 0x04, 0x05, 0x06, 0x07, 0x08,
        0x09, 0x0A, 0x0B, 0x0C, 0x0D, 0xC0] ∧
      Answers (.encode 2 1 0x22 1901 [0x01, 0x02, 0x03, 0x04, 0x05, 0x06, 0x07, 0x08, 0x09, 0x0A, 0x0B, 0x0C, 0x0D]) s
        ([0x00#8] ++ le32 22 ++ f) ∧
      ∀ j, j = 4 ∨ j = 5 → Answers (.validate (flipBit f 2 j)) s [0x00#8, 0x01#8] ∧
        Answers (.parse true (flipBit f 2 j)) s [0x04#8, 0x03#8])

/-- 43_frame R196: PARSE's checks in their order, and the fields it returns. `len`, `a` and `tail` are R196's `L`, `a` and `tail`. -/
def Obligations.ParseChecksInOrderAndSlicesFields : Prop :=
  ∀ s (expectMsc : Bool) (buf : List Byte),
    (buf.length < 8 → Answers (.parse expectMsc buf) s [0x03#8, 0x00#8]) ∧
    (8 ≤ buf.length →
      let n := buf.length
      let len := (buf.getD 2 0x00#8).toNat
      let a := len + 256 * (buf.getD 3 0x00#8).toNat
      let summed := checksum (buf.take (n - 1)) = buf.getD (n - 1) 0x00#8
      let delimited := buf.getD 0 0x00#8 = 0x48#8 ∧ buf.getD 1 0x00#8 = 0x5A#8
      let form1 := len + 5 = n ∧ len ≤ 252
      let form2 := len + 5 < n ∧ a + 7 = n ∧ 252 ≤ a
      let k := if len + 5 = n then 3 else 4
      let tail := (buf.take (n - 1)).drop (k + 4)
      (¬ summed → Answers (.parse expectMsc buf) s [0x04#8, 0x01#8]) ∧
      (summed → ¬ delimited → Answers (.parse expectMsc buf) s [0x04#8, 0x02#8]) ∧
      (summed → delimited → ¬ form1 → ¬ form2 → Answers (.parse expectMsc buf) s [0x04#8, 0x03#8]) ∧
      (summed → delimited → form1 ∨ form2 → expectMsc = true → tail.getD 0 0x00#8 = 0x00#8 →
        Answers (.parse expectMsc buf) s [0x04#8, 0x04#8]) ∧
      (summed → delimited → form1 ∨ form2 → expectMsc = true → tail.getD 0 0x00#8 ≠ 0x00#8 →
        Answers (.parse expectMsc buf) s ([0x00#8, if len + 5 = n then 0x01#8 else 0x02#8, buf.getD k 0x00#8,
          buf.getD (k + 1) 0x00#8, buf.getD (k + 2) 0x00#8, buf.getD (k + 3) 0x00#8, tail.getD 0 0x00#8]
          ++ le32 (tail.length - 1) ++ tail.tail)) ∧
      (summed → delimited → form1 ∨ form2 → expectMsc = false →
        Answers (.parse expectMsc buf) s ([0x00#8, if len + 5 = n then 0x01#8 else 0x02#8, buf.getD k 0x00#8,
          buf.getD (k + 1) 0x00#8, buf.getD (k + 2) 0x00#8, buf.getD (k + 3) 0x00#8, 0x00#8]
          ++ le32 tail.length ++ tail)))

/-- 43_frame R199: PARSE, told whether the code needed its msc, reads back every frame ENCODE produces. -/
def Obligations.ParseReadsBackEveryEncodedFrame : Prop :=
  ∀ s s' (dest src opt : Byte) (code : Word) (payload f : List Byte),
    Answers (.encode dest src opt code payload) s ([0x00#8] ++ le32 f.length ++ f) →
    Answers (.parse (decide (255 < code.toNat)) f) s'
      ([0x00#8, if messageCoreLength code payload ≤ 255 then 0x01#8 else 0x02#8, dest, src, opt,
        BitVec.ofNat 8 (code.toNat % 256), BitVec.ofNat 8 (code.toNat / 256)] ++ le32 payload.length ++ payload)

/-- 43_frame R196 with R174: PARSE accepts nothing that ENCODE does not build: encoding the fields it returns gives the buffer back. In
particular no buffer of 258 bytes is accepted. -/
def Obligations.ParseAcceptsOnlyEncodedFrames : Prop :=
  ∀ s (expectMsc : Bool) (buf payload : List Byte) (form dest src opt lsc msc : Byte),
    Answers (.parse expectMsc buf) s ([0x00#8, form, dest, src, opt, lsc, msc] ++ le32 payload.length ++ payload) →
    buf.length ≠ 258 ∧
    (s.cfg.frameCapacity.exceededBy buf.length = false →
      Answers (.encode dest src opt (BitVec.ofNat 32 (lsc.toNat + 256 * msc.toNat)) payload) s
        ([0x00#8] ++ le32 buf.length ++ buf))

/-! ## Pseudo-instructions -/

/-- 30_encoding R88: FRAME is OPT_PACK and then ENCODE with the packed byte; an error of OPT_PACK is its result and ENCODE is not issued. -/
def Obligations.FramePseudoChainsPackerIntoEncode : Prop :=
  ∀ s (dest src ef sb tr rs rp nm : Byte) (code : Word) (payload : List Byte),
    s.port = .idle → s.pending = [] → s.inputs = [] → payload.length < 2 ^ 32 →
    s.cfg.frameCapacity.exceededBy payload.length = false →
    let line := Line.frame none [.num dest.toNat, .num src.toNat, .num ef.toNat, .num sb.toNat, .num tr.toNat, .num rs.toNat,
      .num rp.toNat, .num nm.toNat, .num code.toNat, .bytes payload]
    (∀ opt rsp, Answers (.optPack ef sb tr rs rp nm) s [0x00#8, opt] → Answers (.encode dest src opt code payload) s rsp →
      (runProgram [line] s).responses = [[0x00#8, opt], rsp]) ∧
    (∀ k, Answers (.optPack ef sb tr rs rp nm) s [0x01#8, k] → (runProgram [line] s).responses = [[0x01#8, k]])

/-- 30_encoding R88 and 42_checksum R153: CRC32_FULL is REORDER and then CRC32_ENGINE of REORDER's result; it answers the whole register,
whose low byte is the checksum, and it ends in CapacityExceeded exactly when the reordered sequence is longer than FRAME_CAPACITY, which needs a length that is no multiple of 4 and
more than FRAME_CAPACITY - 3. -/
def Obligations.Crc32FullPseudoComputesTheChecksumRegister : Prop :=
  ∀ s (seq : List Byte), s.port = .idle → s.pending = [] → s.inputs = [] → 4 * ((seq.length + 3) / 4) < 2 ^ 32 →
    s.cfg.frameCapacity.exceededBy seq.length = false →
    let r := reorder seq
    let first := [0x00#8] ++ le32 r.length ++ r
    (s.cfg.frameCapacity.exceededBy r.length = false →
      (runProgram [.crc32Full none (.bytes seq)] s).responses = [first, [0x00#8] ++ le32 (crc32 r).toNat] ∧
        lowByte (crc32 r) = checksum seq) ∧
    (∀ cap, s.cfg.frameCapacity = .atMost cap → cap < r.length →
      (runProgram [.crc32Full none (.bytes seq)] s).responses = [first, [0x06#8, 0x00#8]] ∧
        seq.length % 4 ≠ 0 ∧ cap < seq.length + 3)
end

