-- ==== Sys2Proof/Laws/State.lean ====
section
/-! SUPPORT. One lemma per field per update of the state, so that no later proof unfolds a record update. -/

namespace Sys2Proof.Machine

open Sys2Proof

variable (s : State)

/-! ## `accept` -/

@[simp] theorem State.accept_port : s.accept.port = .busy := rfl
@[simp] theorem State.accept_crc : s.accept.crc = s.crc := rfl
@[simp] theorem State.accept_reorderBuf : s.accept.reorderBuf = s.reorderBuf := rfl
@[simp] theorem State.accept_frameBuf : s.accept.frameBuf = s.frameBuf := rfl
@[simp] theorem State.accept_pending : s.accept.pending = s.pending := rfl
@[simp] theorem State.accept_delivered : s.accept.delivered = s.delivered := rfl
@[simp] theorem State.accept_inputs : s.accept.inputs = s.inputs := rfl
@[simp] theorem State.accept_cfg : s.accept.cfg = s.cfg := rfl
@[simp] theorem State.accept_draws : s.accept.draws = s.draws := rfl

/-! ## `loadReorder` -/

@[simp] theorem State.loadReorder_port (bs : List Byte) : (s.loadReorder bs).port = s.port := rfl
@[simp] theorem State.loadReorder_crc (bs : List Byte) : (s.loadReorder bs).crc = s.crc := rfl
@[simp] theorem State.loadReorder_reorderBuf (bs : List Byte) : (s.loadReorder bs).reorderBuf = some (reorder bs) := rfl
@[simp] theorem State.loadReorder_frameBuf (bs : List Byte) : (s.loadReorder bs).frameBuf = s.frameBuf := rfl
@[simp] theorem State.loadReorder_pending (bs : List Byte) : (s.loadReorder bs).pending = s.pending := rfl
@[simp] theorem State.loadReorder_delivered (bs : List Byte) : (s.loadReorder bs).delivered = s.delivered := rfl
@[simp] theorem State.loadReorder_inputs (bs : List Byte) : (s.loadReorder bs).inputs = s.inputs := rfl
@[simp] theorem State.loadReorder_cfg (bs : List Byte) : (s.loadReorder bs).cfg = s.cfg := rfl
@[simp] theorem State.loadReorder_draws (bs : List Byte) : (s.loadReorder bs).draws = s.draws := rfl

/-! ## `initCrc` -/

@[simp] theorem State.initCrc_port : s.initCrc.port = s.port := rfl
@[simp] theorem State.initCrc_crc : s.initCrc.crc = crcInitial := rfl
@[simp] theorem State.initCrc_reorderBuf : s.initCrc.reorderBuf = s.reorderBuf := rfl
@[simp] theorem State.initCrc_frameBuf : s.initCrc.frameBuf = s.frameBuf := rfl
@[simp] theorem State.initCrc_pending : s.initCrc.pending = s.pending := rfl
@[simp] theorem State.initCrc_delivered : s.initCrc.delivered = s.delivered := rfl
@[simp] theorem State.initCrc_inputs : s.initCrc.inputs = s.inputs := rfl
@[simp] theorem State.initCrc_cfg : s.initCrc.cfg = s.cfg := rfl
@[simp] theorem State.initCrc_draws : s.initCrc.draws = s.draws := rfl

/-! ## `feedCrc` -/

@[simp] theorem State.feedCrc_port (bs : List Byte) : (s.feedCrc bs).port = s.port := rfl
@[simp] theorem State.feedCrc_crc (bs : List Byte) : (s.feedCrc bs).crc = bs.foldl crcStep s.crc := rfl
@[simp] theorem State.feedCrc_reorderBuf (bs : List Byte) : (s.feedCrc bs).reorderBuf = s.reorderBuf := rfl
@[simp] theorem State.feedCrc_frameBuf (bs : List Byte) : (s.feedCrc bs).frameBuf = s.frameBuf := rfl
@[simp] theorem State.feedCrc_pending (bs : List Byte) : (s.feedCrc bs).pending = s.pending := rfl
@[simp] theorem State.feedCrc_delivered (bs : List Byte) : (s.feedCrc bs).delivered = s.delivered := rfl
@[simp] theorem State.feedCrc_inputs (bs : List Byte) : (s.feedCrc bs).inputs = s.inputs := rfl
@[simp] theorem State.feedCrc_cfg (bs : List Byte) : (s.feedCrc bs).cfg = s.cfg := rfl
@[simp] theorem State.feedCrc_draws (bs : List Byte) : (s.feedCrc bs).draws = s.draws := rfl

/-! ## `runChecksum` -/

@[simp] theorem State.runChecksum_port (bs : List Byte) : (s.runChecksum bs).port = s.port := rfl
@[simp] theorem State.runChecksum_crc (bs : List Byte) : (s.runChecksum bs).crc = crc32 (reorder bs) := rfl
@[simp] theorem State.runChecksum_reorderBuf (bs : List Byte) : (s.runChecksum bs).reorderBuf = some (reorder bs) := rfl
@[simp] theorem State.runChecksum_frameBuf (bs : List Byte) : (s.runChecksum bs).frameBuf = s.frameBuf := rfl
@[simp] theorem State.runChecksum_pending (bs : List Byte) : (s.runChecksum bs).pending = s.pending := rfl
@[simp] theorem State.runChecksum_delivered (bs : List Byte) : (s.runChecksum bs).delivered = s.delivered := rfl
@[simp] theorem State.runChecksum_inputs (bs : List Byte) : (s.runChecksum bs).inputs = s.inputs := rfl
@[simp] theorem State.runChecksum_cfg (bs : List Byte) : (s.runChecksum bs).cfg = s.cfg := rfl
@[simp] theorem State.runChecksum_draws (bs : List Byte) : (s.runChecksum bs).draws = s.draws := rfl

/-! ## `setFrame` -/

@[simp] theorem State.setFrame_port (bs : List Byte) : (s.setFrame bs).port = s.port := rfl
@[simp] theorem State.setFrame_crc (bs : List Byte) : (s.setFrame bs).crc = s.crc := rfl
@[simp] theorem State.setFrame_reorderBuf (bs : List Byte) : (s.setFrame bs).reorderBuf = s.reorderBuf := rfl
@[simp] theorem State.setFrame_frameBuf (bs : List Byte) : (s.setFrame bs).frameBuf = some bs := rfl
@[simp] theorem State.setFrame_pending (bs : List Byte) : (s.setFrame bs).pending = s.pending := rfl
@[simp] theorem State.setFrame_delivered (bs : List Byte) : (s.setFrame bs).delivered = s.delivered := rfl
@[simp] theorem State.setFrame_inputs (bs : List Byte) : (s.setFrame bs).inputs = s.inputs := rfl
@[simp] theorem State.setFrame_cfg (bs : List Byte) : (s.setFrame bs).cfg = s.cfg := rfl
@[simp] theorem State.setFrame_draws (bs : List Byte) : (s.setFrame bs).draws = s.draws := rfl

/-! ## `finish` -/

@[simp] theorem State.finish_port (r : Response) : (s.finish r).port = .idle := rfl
@[simp] theorem State.finish_crc (r : Response) : (s.finish r).crc = Config.crcUnspecified s.draws := rfl
@[simp] theorem State.finish_reorderBuf (r : Response) : (s.finish r).reorderBuf = none := rfl
@[simp] theorem State.finish_frameBuf (r : Response) : (s.finish r).frameBuf = none := rfl
@[simp] theorem State.finish_pending (r : Response) : (s.finish r).pending = s.pending ++ [responseBytes r] := rfl
@[simp] theorem State.finish_delivered (r : Response) : (s.finish r).delivered = s.delivered := rfl
@[simp] theorem State.finish_inputs (r : Response) : (s.finish r).inputs = s.inputs := rfl
@[simp] theorem State.finish_cfg (r : Response) : (s.finish r).cfg = s.cfg := rfl
@[simp] theorem State.finish_draws (r : Response) : (s.finish r).draws = s.draws + 1 := rfl

/-! ## `assertReset` -/

@[simp] theorem State.assertReset_port : s.assertReset.port = .idle := rfl
@[simp] theorem State.assertReset_crc : s.assertReset.crc = Config.crcUnspecified (s.draws + s.pending.length) := rfl
@[simp] theorem State.assertReset_reorderBuf : s.assertReset.reorderBuf = none := rfl
@[simp] theorem State.assertReset_frameBuf : s.assertReset.frameBuf = none := rfl
@[simp] theorem State.assertReset_pending : s.assertReset.pending = [] := rfl
@[simp] theorem State.assertReset_delivered : s.assertReset.delivered = s.delivered ++ drawDelivered s.draws s.pending := rfl
@[simp] theorem State.assertReset_inputs : s.assertReset.inputs = s.inputs := rfl
@[simp] theorem State.assertReset_cfg : s.assertReset.cfg = s.cfg := rfl
@[simp] theorem State.assertReset_draws : s.assertReset.draws = s.draws + s.pending.length + 1 := rfl

/-! ## Inputs taken off the list -/

@[simp] theorem State.setInputs_port (is : List Input) : { s with inputs := is }.port = s.port := rfl
@[simp] theorem State.setInputs_crc (is : List Input) : { s with inputs := is }.crc = s.crc := rfl
@[simp] theorem State.setInputs_reorderBuf (is : List Input) : { s with inputs := is }.reorderBuf = s.reorderBuf := rfl
@[simp] theorem State.setInputs_frameBuf (is : List Input) : { s with inputs := is }.frameBuf = s.frameBuf := rfl
@[simp] theorem State.setInputs_pending (is : List Input) : { s with inputs := is }.pending = s.pending := rfl
@[simp] theorem State.setInputs_delivered (is : List Input) : { s with inputs := is }.delivered = s.delivered := rfl
@[simp] theorem State.setInputs_inputs (is : List Input) : { s with inputs := is }.inputs = is := rfl
@[simp] theorem State.setInputs_cfg (is : List Input) : { s with inputs := is }.cfg = s.cfg := rfl
@[simp] theorem State.setInputs_draws (is : List Input) : { s with inputs := is }.draws = s.draws := rfl

/-! ## `readResponse`: it touches the two response lists only -/

@[simp] theorem State.readResponse_port : s.readResponse.port = s.port := by
  unfold State.readResponse; split <;> rfl
@[simp] theorem State.readResponse_crc : s.readResponse.crc = s.crc := by
  unfold State.readResponse; split <;> rfl
@[simp] theorem State.readResponse_reorderBuf : s.readResponse.reorderBuf = s.reorderBuf := by
  unfold State.readResponse; split <;> rfl
@[simp] theorem State.readResponse_frameBuf : s.readResponse.frameBuf = s.frameBuf := by
  unfold State.readResponse; split <;> rfl
@[simp] theorem State.readResponse_inputs : s.readResponse.inputs = s.inputs := by
  unfold State.readResponse; split <;> rfl
@[simp] theorem State.readResponse_cfg : s.readResponse.cfg = s.cfg := by
  unfold State.readResponse; split <;> rfl
@[simp] theorem State.readResponse_draws : s.readResponse.draws = s.draws := by
  unfold State.readResponse; split <;> rfl
@[simp] theorem State.readResponse_pending : s.readResponse.pending = s.pending.tail := by
  unfold State.readResponse; split <;> simp_all
@[simp] theorem State.readResponse_delivered :
    s.readResponse.delivered = s.delivered ++ s.pending.take 1 := by
  unfold State.readResponse; split <;> simp_all

end Sys2Proof.Machine
end

