-- ==== Sys2Proof/Laws/Ops.lean ====
section
/-! SUPPORT. What the shared operations can do, said once: the checksum run computes `checksum`, the end of a
command forgets every transient part, the reset draw keeps a sublist, and the arithmetic of the shared pure
operations. -/

namespace Sys2Proof.Machine

open Sys2Proof

/-! ## The end of a command -/

theorem State.finish_accept (s : State) (r : Response) : s.accept.finish r = s.finish r := rfl

theorem State.finish_loadReorder (s : State) (bs : List Byte) (r : Response) :
    (s.loadReorder bs).finish r = s.finish r := rfl

theorem State.finish_initCrc (s : State) (r : Response) : s.initCrc.finish r = s.finish r := rfl

theorem State.finish_feedCrc (s : State) (bs : List Byte) (r : Response) : (s.feedCrc bs).finish r = s.finish r := rfl

theorem State.finish_runChecksum (s : State) (bs : List Byte) (r : Response) :
    (s.runChecksum bs).finish r = s.finish r := rfl

theorem State.finish_setFrame (s : State) (bs : List Byte) (r : Response) : (s.setFrame bs).finish r = s.finish r := rfl

/-- A checksum run leaves in the register what the pure function says (R152). -/
theorem State.checksumByte_runChecksum (s : State) (bs : List Byte) :
    (s.runChecksum bs).checksumByte = checksum bs := rfl

/-- The end of a command looks at nothing but what persists: two states that agree on it end alike. -/
theorem State.finish_hidden (s : State) (c : Word) (rb fb : Option (List Byte)) (p : PortState) (r : Response) :
    { s with port := p, crc := c, reorderBuf := rb, frameBuf := fb }.finish r = s.finish r := rfl

/-! ## The reset draw -/

/-- Every delivered response is one that was pending, in the same order (R252). -/
theorem drawDelivered_sublist (n : Nat) (rs : List (List Byte)) : (drawDelivered n rs).Sublist rs := by
  induction rs generalizing n with
  | nil => exact List.Sublist.slnil
  | cons r rest ih =>
    unfold drawDelivered
    split
    · exact (ih (n + 1)).cons_cons r
    · exact (ih (n + 1)).cons r

/-! ## Reorder -/

theorem reorder_group (a b c d : Byte) (rest : List Byte) :
    reorder (a :: b :: c :: d :: rest) = d :: c :: b :: a :: reorder rest := rfl

/-- `len(r) = 4 * ceil(k / 4)` (R141). -/
theorem reorder_length (s : List Byte) : (reorder s).length = 4 * ((s.length + 3) / 4) := by
  induction s using reorder.induct with
  | case1 => rfl
  | case2 => simp [reorder]
  | case3 => simp [reorder]
  | case4 => simp [reorder]
  | case5 a b c d rest ih =>
    simp only [reorder, List.length_cons, ih]
    omega

/-- A complete group at the front is reordered on its own. -/
theorem reorder_append (s t : List Byte) (h : s.length % 4 = 0) : reorder (s ++ t) = reorder s ++ reorder t := by
  induction s using reorder.induct with
  | case1 => rfl
  | case2 => simp at h
  | case3 => simp at h
  | case4 => simp at h
  | case5 a b c d rest ih =>
    have hr : rest.length % 4 = 0 := by simp only [List.length_cons] at h; omega
    simp [reorder, ih hr]

/-! ## The CRC register -/

theorem crc32_nil : crc32 [] = crcInitial := rfl

theorem crc32_append (r t : List Byte) : crc32 (r ++ t) = t.foldl crcStep (crc32 r) := List.foldl_append

theorem iterate_succ (f : Word → Word) (n : Nat) (w : Word) : iterate f (n + 1) w = f (iterate f n w) := by
  induction n generalizing w with
  | zero => rfl
  | succ n ih => exact ih (f w)

/-- The bit step is linear over XOR (R155). -/
theorem crcBit_xor (a b : Word) : crcBit (a ^^^ b) = crcBit a ^^^ crcBit b := by
  have cancel (x y p : Word) : x ^^^ y = (x ^^^ p) ^^^ (y ^^^ p) := by
    ext i hi
    simp only [BitVec.getElem_xor]
    cases x[i] <;> cases y[i] <;> cases p[i] <;> rfl
  unfold crcBit
  rw [BitVec.getLsbD_xor, BitVec.shiftLeft_xor_distrib]
  cases ha : a.getLsbD 31 <;> cases hb : b.getLsbD 31
  · rfl
  · exact BitVec.xor_assoc _ _ _
  · simp only [Bool.xor_false, if_true, Bool.false_eq_true, if_false]; ac_rfl
  · exact cancel _ _ _

theorem iterate_crcBit_xor (n : Nat) (a b : Word) :
    iterate crcBit n (a ^^^ b) = iterate crcBit n a ^^^ iterate crcBit n b := by
  induction n generalizing a b with
  | zero => rfl
  | succ n ih => simp only [iterate, crcBit_xor, ih]

/-! ## The length field -/

theorem lengthField_length (n : Nat) : (lengthField n).length = if n ≤ 255 then 1 else 2 := by
  unfold lengthField; split <;> rfl

/-- LEN_ENCODE succeeds exactly on 6..65539, with the field of R120 (R121, R122). -/
theorem lenEncode_ok {n : Nat} (h₁ : 6 ≤ n) (h₂ : n ≤ 65539) : lenEncode n = .ok (lengthField n) := by
  have h : ¬(n < 6 ∨ 65539 < n) := by omega
  simp [lenEncode, h]

theorem lenEncode_error {n : Nat} (h : n < 6 ∨ 65539 < n) :
    lenEncode n = .error ⟨.lengthOutOfRange, 0x00#8⟩ := by
  simp [lenEncode, h, raise]

end Sys2Proof.Machine
end

