-- ==== Sys2Proof/Laws/Exec.lean ====
section
/-! SUPPORT. One lemma per command: what `exec` answers, with the transient registers and buffers gone. Every command
ends in `finish` of one response, and each lemma names that response. -/

namespace Sys2Proof.Machine

open Sys2Proof

variable (s : State)

theorem exec_optPack (ef sb tr rs rp nm : Byte) :
    exec (.optPack ef sb tr rs rp nm) s = .next (s.finish (respond u8Result (optPack ⟨ef, sb, tr, rs, rp, nm⟩))) := rfl

theorem exec_optUnpack (opt : Byte) :
    exec (.optUnpack opt) s = .next (s.finish (.ok (optionFieldsResult (optUnpack opt)))) := rfl

theorem exec_lenEncode (n : Word) :
    exec (.lenEncode n) s = .next (s.finish (respond bytesField (lenEncode n.toNat))) := rfl

theorem exec_lenDecode (field : List Byte) :
    exec (.lenDecode field) s
      = .next (s.finish (respond (fun n => u32Bytes (BitVec.ofNat 32 n)) (lenDecode field))) := rfl

theorem exec_reorder (seq : List Byte) :
    exec (.reorder seq) s = .next (s.finish (.ok (bytesField (reorder seq)))) := rfl

theorem exec_crc32Engine (seq : List Byte) :
    exec (.crc32Engine seq) s = .next (s.finish (.ok (u32Bytes (crc32 seq)))) := rfl

theorem exec_checksum (seq : List Byte) :
    exec (.checksum seq) s = .next (s.finish (.ok (u8Result (checksum seq)))) := rfl

/-! ## ENCODE -/

theorem exec_encode_codeOutOfRange (dest src opt : Byte) (code : Word) (payload : List Byte)
    (h : 65535 < code.toNat) :
    exec (.encode dest src opt code payload) s = .next (s.finish (.error ⟨.codeOutOfRange, 0x00#8⟩)) := by
  simp only [exec, execEncode, h, if_true]
  rfl

theorem exec_encode_lengthOutOfRange (dest src opt : Byte) (code : Word) (payload : List Byte)
    (hc : ¬ 65535 < code.toNat) (h : 65539 < (coreBody dest src opt code payload).length) :
    exec (.encode dest src opt code payload) s = .next (s.finish (.error ⟨.lengthOutOfRange, 0x00#8⟩)) := by
  simp only [exec, execEncode, hc, if_false, lenEncode_error (Or.inr h)]
  rfl

/-- The bytes ENCODE runs the checksum over: the core body with its length field inserted (R173). -/
def frameBody (core : List Byte) : List Byte := insertField core (lengthField core.length)

theorem exec_encode_finished (dest src opt : Byte) (code : Word) (payload core frame : List Byte)
    (hc : ¬ 65535 < code.toNat) (hcore : core = coreBody dest src opt code payload)
    (h₁ : 6 ≤ core.length) (h₂ : core.length ≤ 65539)
    (hframe : frame = frameBody core ++ [checksum (frameBody core)]) :
    exec (.encode dest src opt code payload) s
      = .next (s.finish (if s.cfg.frameCapacity.exceededBy frame.length then
          .error ⟨.capacityExceeded, 0x00#8⟩ else .ok (bytesField frame))) := by
  subst hcore hframe
  simp only [exec, execEncode, hc, if_false, lenEncode_ok h₁ h₂]
  split <;> rename_i h <;> simp only [State.checksumByte_runChecksum] at h
  · rw [frameBody, if_pos h]; rfl
  · rw [frameBody, if_neg h]; rfl

/-- The core body is never shorter than 6 bytes (R172). -/
theorem coreBody_length (dest src opt : Byte) (code : Word) (payload : List Byte) :
    (coreBody dest src opt code payload).length
      = 6 + (if mscOf code ≠ 0x00#8 then 1 else 0) + payload.length := by
  unfold coreBody delimiters
  split <;> simp <;> omega

/-! ## VALIDATE and PARSE -/

theorem exec_validate_short (buf : List Byte) (h : buf.length < 8) :
    exec (.validate buf) s = .next (s.finish (.error ⟨.emptyBuffer, 0x00#8⟩)) := by
  simp only [exec, execValidate, minimumFrame, h, if_true]
  rfl

theorem exec_validate (buf : List Byte) (h : ¬ buf.length < 8) :
    exec (.validate buf) s = .next (s.finish (.ok (boolResult
      (checksum (slice buf 0 (buf.length - 1)) == byteAt buf (buf.length - 1))))) := by
  simp only [exec, execValidate, minimumFrame, h, if_false]
  rfl

theorem exec_parse_short (expectMsc : Bool) (buf : List Byte) (h : buf.length < 8) :
    exec (.parse expectMsc buf) s = .next (s.finish (.error ⟨.emptyBuffer, 0x00#8⟩)) := by
  simp only [exec, execParse, minimumFrame, h, if_true]
  rfl

theorem exec_parse_mismatch (expectMsc : Bool) (buf : List Byte) (h : ¬ buf.length < 8)
    (hck : checksum (slice buf 0 (buf.length - 1)) ≠ byteAt buf (buf.length - 1)) :
    exec (.parse expectMsc buf) s = .next (s.finish (.error ⟨.malformedFrame, 0x01#8⟩)) := by
  have hck' : (s.accept.runChecksum (slice buf 0 (buf.length - 1))).checksumByte ≠ byteAt buf (buf.length - 1) := hck
  simp only [exec, execParse, minimumFrame, h, if_false, if_pos hck']
  rfl

theorem exec_parse (expectMsc : Bool) (buf : List Byte) (h : ¬ buf.length < 8)
    (hck : checksum (slice buf 0 (buf.length - 1)) = byteAt buf (buf.length - 1)) :
    exec (.parse expectMsc buf) s
      = .next (s.finish (respond frameFieldsResult (parseFields expectMsc buf))) := by
  have hck' : ¬ (s.accept.runChecksum (slice buf 0 (buf.length - 1))).checksumByte ≠ byteAt buf (buf.length - 1) :=
    fun h => h hck
  simp only [exec, execParse, minimumFrame, h, if_false, if_neg hck']
  rfl

/-- Every command ends in `finish` of one response: what a command can do to the state, said once. -/
theorem exec_finish (i : Instr) : ∃ r, exec i s = .next (s.finish r) := by
  cases i with
  | optPack ef sb tr rs rp nm => exact ⟨_, exec_optPack s ef sb tr rs rp nm⟩
  | optUnpack opt => exact ⟨_, exec_optUnpack s opt⟩
  | lenEncode n => exact ⟨_, exec_lenEncode s n⟩
  | lenDecode field => exact ⟨_, exec_lenDecode s field⟩
  | reorder seq => exact ⟨_, exec_reorder s seq⟩
  | crc32Engine seq => exact ⟨_, exec_crc32Engine s seq⟩
  | checksum seq => exact ⟨_, exec_checksum s seq⟩
  | encode dest src opt code payload =>
    by_cases hc : 65535 < code.toNat
    · exact ⟨_, exec_encode_codeOutOfRange s dest src opt code payload hc⟩
    by_cases hl : 65539 < (coreBody dest src opt code payload).length
    · exact ⟨_, exec_encode_lengthOutOfRange s dest src opt code payload hc hl⟩
    · exact ⟨_, exec_encode_finished s dest src opt code payload _ _ hc rfl
        (by rw [coreBody_length]; omega) (by omega) rfl⟩
  | validate buf =>
    by_cases h : buf.length < 8
    · exact ⟨_, exec_validate_short s buf h⟩
    · exact ⟨_, exec_validate s buf h⟩
  | parse expectMsc buf =>
    by_cases h : buf.length < 8
    · exact ⟨_, exec_parse_short s expectMsc buf h⟩
    by_cases hck : checksum (slice buf 0 (buf.length - 1)) = byteAt buf (buf.length - 1)
    · exact ⟨_, exec_parse s expectMsc buf h hck⟩
    · exact ⟨_, exec_parse_mismatch s expectMsc buf h hck⟩

end Sys2Proof.Machine
end

