-- ==== Sys2Proof/Laws/Step.lean ====
section
/-! SUPPORT. What one step can do, said once: it is idle, it ends a command with one response, the host reads, the
block is reset, or a busy port stops it. -/

namespace Sys2Proof.Machine

open Sys2Proof

/-- A request the port has accepted ends in `finish` of one response (R85, R210). -/
theorem serve_finish (req : List Byte) (s : State) : ∃ r, serve req s = .next (s.finish r) := by
  unfold serve
  split
  · exact ⟨_, rfl⟩
  · exact exec_finish s _

theorem whenIdle_idle {s : State} (h : s.port = .idle) (run : State → Host.Outcome State Fault Refusal) :
    whenIdle s run = run s := by
  simp only [whenIdle, h]

theorem whenIdle_busy {s : State} (h : s.port = .busy) (run : State → Host.Outcome State Fault Refusal) :
    whenIdle s run = .fault .portBusy := by
  simp only [whenIdle, h]

theorem port_cases (s : State) : s.port = .idle ∨ s.port = .busy := by
  cases s.port
  · exact .inl rfl
  · exact .inr rfl

/-- The inversion of `step`: everything a step that goes on can have done. -/
theorem step_cases {s t : State} (h : step s = .next t) :
    (s.inputs = [] ∧ t = s) ∨
    (∃ req rest r, s.inputs = .request req :: rest ∧ s.port = .idle ∧
      t = { s with inputs := rest }.finish r ∧ serve req { s with inputs := rest } = .next t) ∨
    (∃ rest, s.inputs = .read :: rest ∧ t = { s with inputs := rest }.readResponse) ∨
    (∃ rest, s.inputs = .reset :: rest ∧ t = { s with inputs := rest }.assertReset) ∨
    (∃ rest, s.inputs = .disturbedRequest :: rest ∧ s.port = .idle ∧
      t = { s with inputs := rest }.finish (Config.disturbedResponse s.draws)) := by
  unfold step at h
  split at h
  · exact .inl ⟨‹_›, by simpa using h.symm⟩
  · rename_i i rest hi
    cases i with
    | request req =>
      obtain hp | hp := port_cases s
      · rw [takeInput, whenIdle_idle (by exact hp)] at h
        obtain ⟨r, hr⟩ := serve_finish req { s with inputs := rest }
        exact .inr (.inl ⟨req, rest, r, hi, hp, Host.Outcome.next.inj (h.symm.trans hr), h⟩)
      · rw [takeInput, whenIdle_busy (by exact hp)] at h
        cases h
    | read => exact .inr (.inr (.inl ⟨rest, hi, (Host.Outcome.next.inj h).symm⟩))
    | reset => exact .inr (.inr (.inr (.inl ⟨rest, hi, (Host.Outcome.next.inj h).symm⟩)))
    | disturbedRequest =>
      obtain hp | hp := port_cases s
      · rw [takeInput, whenIdle_idle (by exact hp)] at h
        exact .inr (.inr (.inr (.inr ⟨rest, hi, hp, (Host.Outcome.next.inj h).symm⟩)))
      · rw [takeInput, whenIdle_busy (by exact hp)] at h
        cases h

/-- A step never refuses: every command has its meaning. -/
theorem step_ne_refused (s : State) (r : Refusal) : step s ≠ .refused r := by
  intro h
  unfold step at h
  split at h
  · cases h
  · rename_i i rest hi
    cases i with
    | request req =>
      obtain hp | hp := port_cases s
      · rw [takeInput, whenIdle_idle (by exact hp)] at h
        obtain ⟨q, hq⟩ := serve_finish req { s with inputs := rest }
        cases h.symm.trans hq
      · rw [takeInput, whenIdle_busy (by exact hp)] at h
        cases h
    | read => cases h
    | reset => cases h
    | disturbedRequest =>
      obtain hp | hp := port_cases s
      · rw [takeInput, whenIdle_idle (by exact hp)] at h
        cases h
      · rw [takeInput, whenIdle_busy (by exact hp)] at h
        cases h

end Sys2Proof.Machine
end

