-- ==== Sys2Proof/Laws/Answers.lean ====
section
/-! SUPPORT. `Answers` and `PortAnswers` in terms of the one response a command ends with. -/

namespace Sys2Proof

open Sys2Proof.Machine

/-- A command that ends in `finish r` answers `r` and nothing else: the way into and out of `Answers`. -/
theorem answers_iff {i : Instr} {s : State} {r : Response} (h : exec i s = .next (s.finish r)) (rsp : List Byte) :
    Answers i s rsp ↔ rsp = responseBytes r := by
  constructor
  · rintro ⟨t, ht, hp, -⟩
    obtain rfl : s.finish r = t := Host.Outcome.next.inj (h.symm.trans ht)
    simpa [eq_comm] using hp
  · rintro rfl
    exact ⟨_, h, rfl, rfl, rfl, rfl, rfl, rfl, rfl⟩

/-- The same of a request at an `Idle` port. -/
theorem portAnswers_iff {req : List Byte} {s : State} {r : Response} (hp : s.port = .idle)
    (h : serve req s = .next (s.finish r)) (rsp : List Byte) : PortAnswers req s rsp ↔ rsp = responseBytes r := by
  have hs : step { s with inputs := .request req :: s.inputs } = .next (s.finish r) :=
    (whenIdle_idle hp _).trans h
  constructor
  · rintro ⟨t, ht, hq, -⟩
    obtain rfl : s.finish r = t := Host.Outcome.next.inj (hs.symm.trans ht)
    simpa [eq_comm] using hq
  · rintro rfl
    exact ⟨_, hs, rfl, rfl, rfl, rfl, rfl, rfl, rfl⟩

/-- One look at the pending responses of the next state settles what a command answers. -/
theorem answers_of_pending {i : Instr} {s t : State} {rsp : List Byte} (h : exec i s = .next t)
    (hp : t.pending = s.pending ++ [rsp]) : Answers i s rsp := by
  obtain ⟨r, hr⟩ := exec_finish s i
  obtain rfl : s.finish r = t := Host.Outcome.next.inj (hr.symm.trans h)
  exact ⟨_, hr, hp, rfl, rfl, rfl, rfl, rfl, rfl⟩

end Sys2Proof
end

