-- ==== Sys2Proof/Laws/Decode.lean ====
section
/-! SUPPORT. The readers of R81 undo the writers of R81, and the opcode map is a bijection onto the ten commands. -/

namespace Sys2Proof

/-- A `u32` reads back (R81). -/
theorem readU32_u32Bytes (w : Word) (rest : List Byte) : readU32 (u32Bytes w ++ rest) = some (w, rest) := by
  simp only [u32Bytes, readU32, List.cons_append, List.nil_append, Option.some.injEq, Prod.mk.injEq, and_true]
  ext i hi
  simp only [BitVec.getElem_append, BitVec.getElem_extractLsb']
  split
  · simp [BitVec.getLsbD_eq_getElem hi]
  split
  · rw [show 8 + (i - 8) = i by omega, BitVec.getLsbD_eq_getElem hi]
  split
  · rw [show 16 + (i - 8 - 8) = i by omega, BitVec.getLsbD_eq_getElem hi]
  · rw [show 24 + (i - 8 - 8 - 8) = i by omega, BitVec.getLsbD_eq_getElem hi]

/-- A `bool` reads back (R81). -/
theorem readBool_boolByte (b : Bool) (rest : List Byte) : readBool (boolByte b :: rest) = some (b, rest) := by
  cases b <;> rfl

/-- A byte sequence whose count fits its `u32` reads back (R81). -/
theorem readBytes_bytesField {s : List Byte} (h : s.length < 2 ^ 32) (rest : List Byte) :
    readBytes (bytesField s ++ rest) = some (s, rest) := by
  have hc : (countWord s.length).toNat = s.length := by
    simp only [countWord, h, if_true, BitVec.toNat_ofNat, Nat.mod_eq_of_lt h]
  simp only [readBytes, bytesField, List.append_assoc, readU32_u32Bytes, Option.bind_some, hc,
    List.length_append, Nat.le_add_right, if_true, List.take_left, List.drop_left]

/-- The opcode of a command names that command (R82). -/
theorem ofOpcode_opcode (m : Mnemonic) : Mnemonic.ofOpcode m.opcode = some m := by cases m <;> rfl

/-- The opcodes are `0x01` to `0x0A` (R82). -/
theorem opcode_range (m : Mnemonic) : 1 ≤ m.opcode.toNat ∧ m.opcode.toNat ≤ 10 := by cases m <;> decide

/-- A legal opcode byte is its command's opcode (R82). -/
theorem opcode_of_ofOpcode {op : Byte} {m : Mnemonic} (h : Mnemonic.ofOpcode op = some m) : m.opcode = op := by
  revert h
  revert op
  cases m <;> decide

end Sys2Proof
end

