-- ==== Sys2Proof/Laws/PerInstr.lean ====
section
/-! SUPPORT. The per-instruction family `RequestShape`: an instruction's request begins with its own opcode, which is
one of the legal opcodes `0x01` to `0x0A` (spec 30_encoding R80, R82). -/

namespace Sys2Proof.Laws.RequestShape

open Sys2Proof

/-- The request is the instruction's opcode byte and its operands, and the opcode names the instruction's command. -/
def Statement (i : Instr) : Prop :=
  encode i = i.mnemonic.opcode :: encodeOperands i ∧ Mnemonic.ofOpcode i.mnemonic.opcode = some i.mnemonic ∧
    1 ≤ i.mnemonic.opcode.toNat ∧ i.mnemonic.opcode.toNat ≤ 10

theorem optPack (ef sb tr rs rp nm : Byte) : Statement (.optPack ef sb tr rs rp nm) :=
  ⟨rfl, ofOpcode_opcode _, opcode_range _⟩
theorem optUnpack (opt : Byte) : Statement (.optUnpack opt) := ⟨rfl, ofOpcode_opcode _, opcode_range _⟩
theorem lenEncode (coreLen : Word) : Statement (.lenEncode coreLen) := ⟨rfl, ofOpcode_opcode _, opcode_range _⟩
theorem lenDecode (field : List Byte) : Statement (.lenDecode field) := ⟨rfl, ofOpcode_opcode _, opcode_range _⟩
theorem reorder (seq : List Byte) : Statement (.reorder seq) := ⟨rfl, ofOpcode_opcode _, opcode_range _⟩
theorem crc32Engine (seq : List Byte) : Statement (.crc32Engine seq) := ⟨rfl, ofOpcode_opcode _, opcode_range _⟩
theorem checksum (seq : List Byte) : Statement (.checksum seq) := ⟨rfl, ofOpcode_opcode _, opcode_range _⟩
theorem encode (dest src opt : Byte) (code : Word) (payload : List Byte) :
    Statement (.encode dest src opt code payload) := ⟨rfl, ofOpcode_opcode _, opcode_range _⟩
theorem validate (buf : List Byte) : Statement (.validate buf) := ⟨rfl, ofOpcode_opcode _, opcode_range _⟩
theorem parse (expectMsc : Bool) (buf : List Byte) : Statement (.parse expectMsc buf) :=
  ⟨rfl, ofOpcode_opcode _, opcode_range _⟩

end Sys2Proof.Laws.RequestShape
end

