-- ==== Sys2Proof/Machine/Assembler.lean ====
section
/-! DEFINITION. The command-line syntax of host programs (spec 30_encoding R87), from characters to lines. It has no
effect on the block (92 D24). What R87 leaves open (blanks, the spelling of names and digits) is in log 11. -/

namespace Sys2Proof.Machine

open Sys2Proof

/-- A blank of a line. -/
def isBlank (c : Char) : Bool := " \t\r".toList.contains c

/-- The text without blanks at its two ends. -/
def trimBlanks (t : List Char) : List Char := ((t.dropWhile isBlank).reverse.dropWhile isBlank).reverse

/-- The text of one line cut at each `sep` that stands outside brackets. -/
def cutAt (sep : Char) : Nat → List Char → List (List Char)
  | _, [] => [[]]
  | depth, c :: rest =>
    let depth' := if c = '[' then depth + 1 else if c = ']' then depth - 1 else depth
    if c = sep && depth = 0 then [] :: cutAt sep depth rest
    else
      match cutAt sep depth' rest with
      | [] => [[c]]
      | first :: others => (c :: first) :: others

/-- The digits in the order of their values; a base uses the first `base` of them. Letters of either case are the same
digit (log 11). -/
def digitsInOrder : List Char := "0123456789abcdef".toList

/-- The number a sequence of digits of the base writes, most significant first; `none` when one is no digit of it. -/
def digitsValue (base : Nat) (digits : List Char) : Option Nat :=
  (digits.mapM fun c => (digitsInOrder.take base).idxOf? c.toLower).map (·.foldl (fun acc d => acc * base + d) 0)

/-- "A numeric operand is decimal or `0x` hexadecimal" (R87). -/
def numberOf : List Char → Option Nat
  | [] => none
  | '0' :: 'x' :: c :: rest => digitsValue 16 (c :: rest)
  | c :: rest => digitsValue 10 (c :: rest)

/-- A character of a host name. -/
def isNameChar (c : Char) : Bool := c.isAlphanum || c = '_'

/-- A host name: letters, digits and `_`, not a digit first. -/
def nameOf : List Char → Option String
  | [] => none
  | c :: rest => if isNameChar c && !c.isDigit && rest.all isNameChar then some (String.ofList (c :: rest)) else none

/-- One byte of a bracketed list. -/
def listByte (t : List Char) : Option Byte :=
  match numberOf (trimBlanks t) with
  | some n => if n < 256 then some (BitVec.ofNat 8 n) else none
  | none => none

/-- "A bracketed list `[0x48, 0x5A]` (`[]` is empty)" (R87), from the text after the opening bracket. -/
def bracketList (t : List Char) : Option (List Byte) :=
  if t.getLast? = some ']' then
    let inner := trimBlanks t.dropLast
    if inner = [] then some [] else (cutAt ',' 0 inner).mapM listByte
  else none

/-- One operand (R87): a number, a bracketed list, `zeros(k)`, `$name` or `$name.field`. -/
def operandOf (t : List Char) : Option Operand :=
  match trimBlanks t with
  | '[' :: rest => (bracketList rest).map .bytes
  | '$' :: rest =>
    match cutAt '.' 0 rest with
    | [name] => (nameOf name).map .ref
    | [name, field] => (nameOf name).bind fun n => (nameOf field).map (.refField n)
    | _ => none
  | 'z' :: 'e' :: 'r' :: 'o' :: 's' :: '(' :: rest =>
    if rest.getLast? = some ')' then (numberOf (trimBlanks rest.dropLast)).map .zeroBytes else none
  | other => (numberOf other).map .num

/-- The name of a command as R82 spells it. -/
def mnemonicSpelling : Mnemonic → String
  | .optPack => "OPT_PACK"
  | .optUnpack => "OPT_UNPACK"
  | .lenEncode => "LEN_ENCODE"
  | .lenDecode => "LEN_DECODE"
  | .reorder => "REORDER"
  | .crc32Engine => "CRC32_ENGINE"
  | .checksum => "CHECKSUM"
  | .encode => "ENCODE"
  | .validate => "VALIDATE"
  | .parse => "PARSE"

/-- The ten commands in the order of R82. -/
def allMnemonics : List Mnemonic :=
  [.optPack, .optUnpack, .lenEncode, .lenDecode, .reorder, .crc32Engine, .checksum, .encode, .validate, .parse]

/-- The line of a command or a pseudo-instruction, from its name and its operands. -/
def lineNamed (bind : Option String) (word : List Char) (operands : List Operand) : Option Line :=
  if word = "FRAME".toList then some (.frame bind operands)
  else if word = "CRC32_FULL".toList then
    match operands with
    | [s] => some (.crc32Full bind s)
    | _ => none
  else (allMnemonics.find? fun m => (mnemonicSpelling m).toList = word).map fun m => .command bind m operands

/-- `MNEMONIC operand, operand, ...` (R87). -/
def commandOf (bind : Option String) (t : List Char) : Option Line :=
  let text := trimBlanks t
  let word := text.takeWhile fun c => !isBlank c
  let rest := trimBlanks (text.dropWhile fun c => !isBlank c)
  if rest = [] then lineNamed bind word []
  else ((cutAt ',' 0 rest).mapM operandOf).bind (lineNamed bind word)

/-- One line (R87): blank, a `host:` action, a command, or a command whose result is bound to a name; `;` starts a
comment. `none` where the text is no line of R87. -/
def lineOf (t : List Char) : Option (List Line) :=
  let text := trimBlanks (t.takeWhile fun c => c ≠ ';')
  match text with
  | [] => some []
  | 'h' :: 'o' :: 's' :: 't' :: ':' :: remark => some [.hostRemark (String.ofList (trimBlanks remark))]
  | _ =>
    match cutAt '=' 0 text with
    | [command] => (commandOf none command).map ([·])
    | [name, command] => (nameOf (trimBlanks name)).bind fun n => (commandOf (some n) command).map ([·])
    | _ => none

/-- A whole program text, "One command per line" (R87): a line ends at its line end, whatever stands in it. DESIGN CHOICE
(log 11): a text with a line that is none of R87's has no program. -/
def assemble (text : String) : Option (List Line) := ((text.toList.splitOn '\n').mapM lineOf).map List.flatten

end Sys2Proof.Machine
end

