-- ==== Sys2Proof/Tests/Slice0.lean ====
section
/-! SUPPORT. Tests of one step each, with the expected bytes taken from spec/95_test_vectors.md (the V number stands in each
comment) and from the corner cases of the command rules, and a witness for the hypotheses of every statement. -/

-- Kernel evaluations one after another: run side by side, each waits on a thread of its own.
set_option Elab.async false

namespace Sys2Proof.Tests

open Sys2Proof Sys2Proof.Machine

/-! ## Helpers -/

/-- A quiescent block of the given capacity with nothing pending. -/
def block (cap : Capacity) : State := { State.reset with cfg := ⟨cap⟩ }

/-- The block with host inputs. -/
def given (cap : Capacity) (is : List Input) : State := { block cap with inputs := is }

/-- The last response pending after an outcome. -/
def lastResponse : Host.Outcome State Fault Refusal → Option (List Byte)
  | .next t => t.pending.getLast?
  | .fault _ => none
  | .refused _ => none

/-- What the block of unbounded capacity answers to one request. -/
def reply (req : List Byte) : Option (List Byte) := lastResponse (step (given .unbounded [.request req]))

/-- What the block of a bounded capacity answers to one request. -/
def replyWithin (cap : Nat) (req : List Byte) : Option (List Byte) :=
  lastResponse (step (given (.atMost cap) [.request req]))

/-- A computed response is what the command answers. -/
theorem answers_of_last {i : Instr} {s : State} {rsp : List Byte} (h : lastResponse (exec i s) = some rsp) :
    Answers i s rsp := by
  obtain ⟨r, hr⟩ := exec_finish s i
  rw [hr] at h
  refine answers_of_pending hr ?_
  simp only [lastResponse, State.finish_pending, List.getLast?_append, List.getLast?_singleton, Option.some_or,
    Option.some.injEq] at h
  rw [State.finish_pending, h]

/-! ## Well-formedness: the one check refuses an operand whose count does not fit its u32 -/

theorem test_wf_refuses_operand_of_2_pow_32_bytes (s : List Byte) (h : s.length = 2 ^ 32) :
    (Instr.reorder s).wf = false := by
  simp [Instr.wf, Instr.operandLength, Instr.bytesOperand, h]

theorem test_wf_ill_formed_term : ∃ i : Instr, i.wf = false :=
  ⟨.reorder (List.replicate (2 ^ 32) 0), test_wf_refuses_operand_of_2_pow_32_bytes _ List.length_replicate⟩

theorem test_wf_accepts_largest_operand (s : List Byte) (h : s.length = 2 ^ 32 - 1) : (Instr.checksum s).wf = true := by
  simp [Instr.wf, Instr.operandLength, Instr.bytesOperand, h]

/-! ## Decoding: one request of every command, written out from R81 to R83 -/

theorem test_decode_opt_pack : decode .unbounded [0x01, 1, 0, 3, 0, 2, 1] = .ok (.optPack 1 0 3 0 2 1) := by
  decide +kernel
theorem test_decode_opt_unpack : decode .unbounded [0x02, 0xA5] = .ok (.optUnpack 0xA5) := by decide +kernel
theorem test_decode_len_encode :
    decode .unbounded [0x03, 0x78, 0x56, 0x34, 0x12] = .ok (.lenEncode 0x12345678) := by decide +kernel
theorem test_decode_len_decode :
    decode .unbounded [0x04, 2, 0, 0, 0, 0xFC, 0x01] = .ok (.lenDecode [0xFC, 0x01]) := by decide +kernel
theorem test_decode_reorder : decode .unbounded [0x05, 1, 0, 0, 0, 0xAA] = .ok (.reorder [0xAA]) := by decide +kernel
theorem test_decode_crc32_engine :
    decode .unbounded [0x06, 2, 0, 0, 0, 7, 9] = .ok (.crc32Engine [7, 9]) := by decide +kernel
theorem test_decode_checksum : decode .unbounded [0x07, 0, 0, 0, 0] = .ok (.checksum []) := by decide +kernel
theorem test_decode_encode :
    decode .unbounded [0x08, 9, 8, 7, 0x6D, 0x07, 0x01, 0x80, 1, 0, 0, 0, 0x48]
      = .ok (.encode 9 8 7 0x8001076D [0x48]) := by decide +kernel
theorem test_decode_validate :
    decode .unbounded [0x09, 3, 0, 0, 0, 0x48, 0x5A, 3] = .ok (.validate [0x48, 0x5A, 3]) := by decide +kernel
theorem test_decode_parse :
    decode .unbounded [0x0A, 0, 1, 0, 0, 0, 0x5A] = .ok (.parse false [0x5A]) := by decide +kernel

/-- V140 to V147: the rejections of command decode. -/
theorem test_decode_rejections :
    reply [] = some [0x08, 0x00] ∧ reply [0x00] = some [0x07, 0x00] ∧ reply [0x0B] = some [0x07, 0x0B] ∧
    reply [0xFF] = some [0x07, 0xFF] ∧ reply [1, 0, 1, 0, 0, 1] = some [0x08, 0x00] ∧
    reply [1, 0, 1, 0, 0, 1, 0, 0] = some [0x08, 0x00] ∧ reply [9, 5, 0, 0, 0, 1, 2] = some [0x08, 0x00] ∧
    reply [0x0A, 2, 0, 0, 0, 0] = some [0x08, 0x00] := by decide +kernel

/-- V106: an operand over FRAME_CAPACITY. -/
theorem test_decode_capacity :
    replyWithin 8 [9, 9, 0, 0, 0, 0x48, 0x5A, 4, 2, 1, 0x22, 0x6D, 7, 0xA5] = some [0x06, 0x00] := by decide +kernel

theorem test_table_word_is_zero_filled : decodeTableWord 8 0x08 = some (.encode 0 0 0 0 []) := by decide +kernel
theorem test_table_word_illegal : decodeTableWord 8 0x0B = none := by decide +kernel

/-! ## The commands, through the port -/

/-- V13 and V18. -/
theorem test_opt_pack : reply [1, 0, 0, 2, 0, 1, 0] = some [0x00, 0x22] := by decide +kernel
theorem test_opt_pack_first_bad_field : reply [1, 2, 0, 4, 0, 0, 0] = some [0x01, 0x00] := by decide +kernel
/-- V29. -/
theorem test_opt_unpack : reply [2, 0xA5] = some [0x00, 1, 0, 2, 0, 2, 1] := by decide +kernel
/-- V38 and V41. -/
theorem test_len_encode_carry : reply [3, 4, 1, 0, 0] = some [0x00, 2, 0, 0, 0, 0x00, 0x01] := by decide +kernel
theorem test_len_encode_too_long : reply [3, 4, 0, 1, 0] = some [0x05, 0x00] := by decide +kernel
/-- V50 and V49. -/
theorem test_len_decode_largest : reply [4, 2, 0, 0, 0, 0xFF, 0xFF] = some [0x00, 3, 0, 1, 0] := by decide +kernel
theorem test_len_decode_non_canonical : reply [4, 2, 0, 0, 0, 0xFB, 0x00] = some [0x05, 0x00] := by decide +kernel
/-- V5: the winning reading of conflict C2. -/
theorem test_reorder_pads_then_reverses :
    reply [5, 5, 0, 0, 0, 1, 2, 3, 4, 5] = some [0x00, 8, 0, 0, 0, 4, 3, 2, 1, 0, 0, 0, 5] := by decide +kernel
/-- C4: a multiple of four has no padded group. -/
theorem test_reorder_full_group :
    reply [5, 4, 0, 0, 0, 0xAA, 0xBB, 0xCC, 0xDD] = some [0x00, 4, 0, 0, 0, 0xDD, 0xCC, 0xBB, 0xAA] := by decide +kernel
/-- V76 and V60. -/
theorem test_crc32_engine :
    reply [6, 9, 0, 0, 0, 0x31, 0x32, 0x33, 0x34, 0x35, 0x36, 0x37, 0x38, 0x39] = some [0x00, 0xE7, 0xE6, 0x76, 0x03] := by
  decide +kernel
theorem test_crc32_engine_empty : reply [6, 0, 0, 0, 0] = some [0x00, 0xFF, 0xFF, 0xFF, 0xFF] := by decide +kernel
/-- V65 and V77. -/
theorem test_checksum : reply [7, 5, 0, 0, 0, 1, 2, 3, 4, 5] = some [0x00, 0xE3] := by decide +kernel
theorem test_checksum_padding : reply [7, 1, 0, 0, 0, 0] = some [0x00, 0x7B] := by decide +kernel
/-- V85: no stuffing, msc present. V99: the result's size. -/
theorem test_encode_carries_delimiters :
    reply [8, 0x48, 0x5A, 0x48, 0x48, 0x5A, 0, 0, 2, 0, 0, 0, 0x48, 0x5A]
      = some [0x00, 11, 0, 0, 0, 0x48, 0x5A, 6, 0x48, 0x5A, 0x48, 0x48, 0x5A, 0x48, 0x5A, 0xC5] := by decide +kernel
theorem test_encode_result_over_capacity : replyWithin 8 [8, 0, 0, 0, 0, 0, 0, 0, 1, 0, 0, 0, 1] = some [0x06, 0x00] := by
  decide +kernel
/-- V104 and V102: only the checksum and the minimum length are checked. -/
theorem test_validate_no_structure :
    reply [9, 8, 0, 0, 0, 0, 0, 0, 0, 0, 0, 0, 0x59] = some [0x00, 0x01] := by decide +kernel
theorem test_validate_short : reply [9, 7, 0, 0, 0, 0x48, 0x5A, 4, 2, 1, 0x22, 0x6D] = some [0x03, 0x00] := by
  decide +kernel
/-- V111 and V120. -/
theorem test_parse_msc_as_payload :
    reply [0x0A, 0, 9, 0, 0, 0, 0x48, 0x5A, 4, 2, 1, 0x22, 0x6D, 7, 0xA5]
      = some [0x00, 1, 2, 1, 0x22, 0x6D, 0, 1, 0, 0, 0, 7] := by decide +kernel
theorem test_parse_non_canonical :
    reply [0x0A, 1, 10, 0, 0, 0, 0x48, 0x5A, 3, 0, 2, 1, 0x22, 0x6D, 7, 0xF2] = some [0x04, 0x03] := by decide +kernel

/-! ## The port -/

theorem test_no_input_no_change : step State.reset = .next State.reset := rfl

theorem test_requests_are_taken_in_order :
    (match step (given .unbounded [.request [2, 0xFF], .request [2, 0x00]]) with
      | .next t => t.inputs
      | .fault _ => []
      | .refused _ => []) = [.request [2, 0x00]] := by decide +kernel

/-- P1, its first two lines, from characters to responses. -/
theorem test_assembled_program :
    ((assemble "t = OPT_PACK 0, 0, 2, 0, 1, 0 ; pack\nf = ENCODE 2, 0x01, $t, 1901, []").map fun p =>
        (runProgram p State.reset).responses)
      = some [[0x00, 0x22], [0x00, 9, 0, 0, 0, 0x48, 0x5A, 4, 2, 1, 0x22, 0x6D, 7, 0xA5]] := by decide +kernel

/-- R87: a comment or a host remark ends with its line, whatever brackets stand in it. -/
theorem test_brackets_in_remarks_end_with_their_line :
    assemble "; f[0..8)\nhost: see [1\nu = OPT_UNPACK 0xA5 ; [" =
      some [.hostRemark "see [1", .command (some "u") .optUnpack [.num 0xA5]] := by decide +kernel

/-- P4's first line as the pseudo-instruction: OPT_PACK's error is the result and ENCODE is not issued (R88). -/
theorem test_frame_stops_at_packer_error :
    (runProgram [.frame none [.num 2, .num 1, .num 0, .num 0, .num 4, .num 0, .num 1, .num 0, .num 1901, .bytes []]]
      State.reset).responses = [[0x01, 0x02]] := by decide +kernel

/-! ## Witnesses: a state and operands that meet the hypotheses of each statement, one for each clause

`F9` is V1's frame of 9 bytes, `F22` R187's frame of 22 bytes. -/

def F9 : List Byte := [0x48, 0x5A, 4, 2, 1, 0x22, 0x6D, 7, 0xA5]

def F22 : List Byte := [0x48, 0x5A, 0x11, 2, 1, 0x22, 0x6D, 7, 1, 2, 3, 4, 5, 6, 7, 8, 9, 0x0A, 0x0B, 0x0C, 0x0D, 0xC0]

/-- A block with a response pending, one delivered, and an input. -/
def worn (i : Input) : State := { block .unbounded with pending := [[0x00, 0x22]], delivered := [[0x08, 0x00]], inputs := [i] }

theorem witness_EveryStepKeepsQuiescenceAndLegalResponses :
    ∃ t, PortInvariant (worn .read) ∧ step (worn .read) = .next t :=
  ⟨_, by decide, rfl⟩

theorem witness_QuiescentBlockRunsForever : Quiescent (worn (.request [2, 0xFF])) := by decide

theorem witness_ResponsesDependOnRequestAndCapacityInOrder :
    (given (.atMost 8) [.request [2, 0xFF], .request []]).port = .idle ∧
      (given (.atMost 8) [.request [2, 0xFF], .request []]).inputs = [[2, 0xFF], []].map .request := by decide

theorem witness_TransientStateIsNeverObserved : ∃ t, step (worn .reset) = .next t := ⟨_, rfl⟩

theorem witness_StepPerformsDecodedCommand :
    (worn (.request [2, 0xFF])).port = .idle ∧ (worn (.request [2, 0xFF])).inputs = .request [2, 0xFF] :: [] ∧
      decode (worn (.request [2, 0xFF])).cfg.frameCapacity [2, 0xFF] = .ok (.optUnpack 0xFF) := by decide +kernel

theorem witness_StepPerformsDecodedCommand_encoded :
    let s := given (.atMost 1) [.request (encode (.checksum [7]))]
    s.port = .idle ∧ (Instr.checksum [7]).wf = true ∧ (Instr.checksum [7]).fits s.cfg.frameCapacity = true ∧
      s.inputs = .request (encode (.checksum [7])) :: [] := by decide +kernel

theorem witness_DecodeErrorsFollowPriority_illegal :
    (block .unbounded).port = .idle ∧ ((0x00#8).toNat = 0 ∨ 11 ≤ (0x00#8).toNat) ∧
      ((0x0B#8).toNat = 0 ∨ 11 ≤ (0x0B#8).toNat) := by decide

/-- OPT_PACK with five operand bytes (V144) is no command's request. -/
theorem witness_DecodeErrorsFollowPriority_malformed :
    1 ≤ (0x01#8).toNat ∧ (0x01#8).toNat ≤ 10 ∧
      ∀ i : Instr, i.wf = true → encode i ≠ 0x01#8 :: [0x00#8, 0x01#8, 0x00#8, 0x00#8, 0x01#8] := by
  refine ⟨by decide, by decide, fun i _ => ?_⟩
  cases i <;> simp [encode, encodeOperands, Instr.mnemonic, Mnemonic.opcode]

theorem witness_DecodeErrorsFollowPriority_capacity :
    (Instr.validate F9).wf = true ∧ (Instr.validate F9).fits (block (.atMost 8)).cfg.frameCapacity = false ∧
      (Instr.validate F9).fits (block (.atMost 9)).cfg.frameCapacity = true := by decide +kernel

theorem witness_DecodeErrorsFollowPriority_command : Answers (.validate F9) (block (.atMost 9)) [0x00, 0x01] :=
  answers_of_last (by decide +kernel)

theorem witness_ResponseLengthIsBounded :
    (block (.atMost 0)).port = .idle ∧ (block (.atMost 0)).cfg.frameCapacity = .atMost 0 := by decide

theorem witness_IdleStepStaysAndReadTakesOldest :
    State.reset.inputs = [] ∧ (worn .read).inputs = .read :: [] ∧ (given .unbounded [.read]).inputs = .read :: [] := by decide

/-- With the port `Idle`, and with it `Busy` and a request behind the reset. -/
theorem witness_ResetInputReturnsToIdle :
    (worn .reset).inputs = .reset :: [] ∧
      ({ worn .reset with port := .busy, inputs := [.reset, .request []] } : State).inputs = .reset :: [.request []] := by
  decide

theorem witness_BusyPortTakesNoRequest :
    ({ worn (.request []) with port := .busy } : State).port = .busy ∧
      ({ worn (.request []) with port := .busy } : State).inputs = .request [] :: [] := by decide

theorem witness_DisturbedRequestLeavesBlockUsable :
    (worn .disturbedRequest).port = .idle ∧ (worn .disturbedRequest).inputs = .disturbedRequest :: [] := by decide

theorem witness_DecodeOfEncodeIsIdentity :
    (Instr.parse true [0xFF]).wf = true ∧ (Instr.parse true [0xFF]).fits (.atMost 1) = true := by decide +kernel

theorem witness_EveryDecodedRequestIsCanonical :
    decode (.atMost 1) [0x0A, 1, 1, 0, 0, 0, 0xFF] = .ok (.parse true [0xFF]) := by decide +kernel

theorem witness_OpcodeMapIsTheTable :
    Mnemonic.ofOpcode 0x0A#8 = some .parse ∧ Mnemonic.ofOpcode 0x00#8 = none ∧ Mnemonic.ofOpcode 0x0B#8 = none ∧
      decode .unbounded (0x02#8 :: [0xFF#8]) = .ok (.optUnpack 0xFF) ∧ ((0x00#8).toNat = 0 ∨ 11 ≤ (0x00#8).toNat) ∧
      ((0x0B#8).toNat = 0 ∨ 11 ≤ (0x0B#8).toNat) := by
  decide +kernel

theorem witness_PortTypesAreSerializedLittleEndian :
    2 ≤ (0x02#8).toNat ∧ (F9 : List Byte).length < 2 ^ 32 := by decide

theorem witness_TableWordsRunTheirCommand : 1 ≤ 1 ∧ 1 ≤ 10 ∧ 10 ≤ 10 := by decide

theorem witness_WorkedEncodeExample :
    (block (.atMost 9)).port = .idle ∧ (block (.atMost 9)).cfg.frameCapacity.exceededBy 9 = false := by decide

theorem witness_OptPackPacksOrReportsFirstBadField_fits :
    (1#8).toNat < 2 ∧ (1#8).toNat < 2 ∧ (3#8).toNat < 4 ∧ (1#8).toNat < 2 ∧ (3#8).toNat < 4 ∧ (1#8).toNat < 2 := by decide

/-- Field by field, the first value that does not fit behind the last values that do. -/
theorem witness_OptPackPacksOrReportsFirstBadField_bad :
    2 ≤ (2#8).toNat ∧ ((1#8).toNat < 2 ∧ 2 ≤ (2#8).toNat) ∧ ((1#8).toNat < 2 ∧ (1#8).toNat < 2 ∧ 4 ≤ (4#8).toNat) ∧
      ((1#8).toNat < 2 ∧ (1#8).toNat < 2 ∧ (3#8).toNat < 4 ∧ 2 ≤ (2#8).toNat) ∧
      ((1#8).toNat < 2 ∧ (1#8).toNat < 2 ∧ (3#8).toNat < 4 ∧ (1#8).toNat < 2 ∧ 4 ≤ (4#8).toNat) ∧
      ((1#8).toNat < 2 ∧ (1#8).toNat < 2 ∧ (3#8).toNat < 4 ∧ (1#8).toNat < 2 ∧ (3#8).toNat < 4 ∧ 2 ≤ (2#8).toNat) := by
  decide

theorem witness_PackAndUnpackAreInverse :
    Answers (.optPack 1 1 3 1 3 1) (block .unbounded) [0x00, 0xFF] ∧
      Answers (.optUnpack 0xFF) (block .unbounded) [0x00, 1, 1, 3, 1, 3, 1] :=
  ⟨answers_of_last (by decide +kernel), answers_of_last (by decide +kernel)⟩

theorem witness_LenEncodeChoosesFormByCoreLength :
    (6 ≤ (6#32).toNat ∧ (6#32).toNat ≤ 255) ∧ (6 ≤ (255#32).toNat ∧ (255#32).toNat ≤ 255) ∧
      (256 ≤ (256#32).toNat ∧ (256#32).toNat ≤ 65539) ∧ (256 ≤ (65539#32).toNat ∧ (65539#32).toNat ≤ 65539) ∧
      ((5#32).toNat < 6 ∨ 65539 < (5#32).toNat) ∧ ((65540#32).toNat < 6 ∨ 65539 < (65540#32).toNat) := by decide

theorem witness_LengthFieldDecodesToCoreLength :
    (6 ≤ (255#32).toNat ∧ (255#32).toNat ≤ 65539 ∧ (255#32).toNat ≤ 255) ∧
      (6 ≤ (256#32).toNat ∧ (256#32).toNat ≤ 65539 ∧ 255 < (256#32).toNat) := by decide

theorem witness_LenDecodeAcceptsCanonicalFieldsOnly :
    (3 ≤ (3#8).toNat ∧ (3#8).toNat ≤ 252) ∧ (3 ≤ (252#8).toNat ∧ (252#8).toNat ≤ 252) ∧
      ((2#8).toNat < 3 ∨ 252 < (2#8).toNat) ∧ ((253#8).toNat < 3 ∨ 252 < (253#8).toNat) ∧
      252 ≤ (252#8).toNat + 256 * (0#8).toNat ∧ (251#8).toNat + 256 * (0#8).toNat < 252 ∧
      (([] : List Byte).length ≠ 1 ∧ ([] : List Byte).length ≠ 2) ∧
      (([1, 2, 3] : List Byte).length ≠ 1 ∧ ([1, 2, 3] : List Byte).length ≠ 2) := by decide

theorem witness_LenEncodeAndDecodeAreInverse :
    Answers (.lenEncode 255) (block .unbounded) ([0x00#8] ++ le32 [0xFC#8].length ++ [0xFC#8]) ∧
      Answers (.lenDecode [0xFC, 0x00]) (block .unbounded) ([0x00#8] ++ le32 (256#32).toNat) :=
  ⟨answers_of_last (by decide +kernel), answers_of_last (by decide +kernel)⟩

/-- The result of a one-byte operand has the indexes 0 to 3; index 3 is the last. -/
theorem witness_ReorderReversesPaddedGroups : 3 < 4 ∧ 4 * 0 + 3 < 4 * (([0xAA#8].length + 3) / 4) := by decide

theorem witness_ReorderLaws :
    ([1, 2, 3, 4] : List Byte).length % 4 = 0 ∧ 0 < ([1] : List Byte).length % 4 ∧ 3 ≤ 4 - ([1] : List Byte).length % 4 := by
  decide

theorem witness_CrcByteStepIsEightTestedShifts : 31 < 32 ∧ 7 < 8 ∧ 0 < 32 := by decide

theorem witness_ChecksumIgnoresPaddingZeros :
    0 < ([1, 2, 3, 4, 5] : List Byte).length % 4 ∧ 3 ≤ 4 - ([1, 2, 3, 4, 5] : List Byte).length % 4 := by decide

theorem witness_CrcIsAffine : ([1] : List Byte).length = ([2] : List Byte).length ∧
    ([2] : List Byte).length = ([3] : List Byte).length := by decide

/-- The flip R187 shows, at distance 22, and the farthest distance the list covers. -/
theorem witness_FlippedBitChangesChecksumByDistance :
    (2 < F22.length ∧ 4 < 8 ∧ 4 * ((21 + 3) / 4) - 1 - (4 * (2 / 4) + (3 - 2 % 4)) = 22) ∧
      (3 < (List.replicate 240 (0 : Byte)).length ∧ 7 < 8 ∧ 4 * ((240 + 3) / 4) - 1 - (4 * (3 / 4) + (3 - 3 % 4)) = 239) := by
  decide +kernel

/-- The four clauses of ENCODE, each at the edge of its range. -/
theorem witness_EncodeBuildsTheWireFrame :
    65535 < (65536#32).toNat ∧
    ((65535#32).toNat ≤ 65535 ∧ 65539 < messageCoreLength 65535 (List.replicate 65533 0)) ∧
    ((0#32).toNat ≤ 65535 ∧ messageCoreLength 0 [1] ≤ 65539 ∧
      (block (.atMost 8)).cfg.frameCapacity.exceededBy (wireFrame 0 0 0 0 [1]).length = true) ∧
    Encodable (block (.atMost 8)).cfg.frameCapacity 0 0 0 0 [] ∧
    Encodable (block .unbounded).cfg.frameCapacity 0 0 0 65535 (List.replicate 65532 0) := by
  refine ⟨by decide, ⟨by decide, ?_⟩, by decide +kernel, ⟨by decide +kernel, by decide +kernel, by decide +kernel⟩,
    ⟨by decide, ?_, rfl⟩⟩ <;>
  · unfold messageCoreLength
    rw [List.length_replicate]
    decide

/-- Both length forms at the threshold: `core_len` 255 and 256, with a payload and with msc. -/
theorem witness_EncodedFrameLayout :
    (Encodable (block .unbounded).cfg.frameCapacity 1 2 3 256 (List.replicate 248 0) ∧
      6 + 1 + (List.replicate 248 (0 : Byte)).length ≤ 255 ∧ 247 < (List.replicate 248 (0 : Byte)).length) ∧
    (Encodable (block .unbounded).cfg.frameCapacity 1 2 3 256 (List.replicate 249 0) ∧
      255 < 6 + 1 + (List.replicate 249 (0 : Byte)).length ∧ 248 < (List.replicate 249 (0 : Byte)).length) := by
  refine ⟨⟨⟨by decide, ?_, rfl⟩, by decide +kernel, by decide +kernel⟩,
    ⟨⟨by decide, ?_, rfl⟩, by decide +kernel, by decide +kernel⟩⟩ <;> decide +kernel

theorem witness_ValidateChecksLengthAndChecksumOnly :
    F9.dropLast.dropLast.length < 8 ∧ 8 ≤ F9.length ∧ F9 = F9.dropLast ++ [0xA5#8] ∧ checksum F9.dropLast = 0xA5#8 ∧
      checksum F9.dropLast ≠ 0xA4#8 ∧ 0xA4#8 ≠ 0xA5#8 := by decide +kernel

theorem witness_ValidateChecksLengthAndChecksumOnly_valid : Answers (.validate F9) (block .unbounded) [0x00, 0x01] :=
  answers_of_last (by decide +kernel)

/-- V1's frame as ENCODE's answer: the hypothesis of both round trips. -/
theorem witness_ValidateAcceptsEveryEncodedFrame :
    Answers (.encode 2 1 0x22 1901 []) (block (.atMost 9)) ([0x00#8] ++ le32 F9.length ++ F9) :=
  answers_of_last (by decide +kernel)

theorem witness_ParseReadsBackEveryEncodedFrame :
    Answers (.encode 2 1 0x22 1901 []) (block .unbounded) ([0x00#8] ++ le32 F9.length ++ F9) :=
  answers_of_last (by decide +kernel)

/-- A buffer of 21 bytes, the longest of the first clause, and a capacity that just admits 22. -/
theorem witness_ShortestUndetectedFlipNeeds22Bytes :
    let buf := F22.take 20 ++ [checksum (F22.take 20)]
    (buf.length < 22 ∧ Answers (.validate buf) (block .unbounded) [0x00, 0x01] ∧ 20 < buf.length ∧ 7 < 8) ∧
      (block (.atMost 22)).cfg.frameCapacity.exceededBy 22 = false :=
  ⟨⟨by decide +kernel, answers_of_last (by decide +kernel), by decide +kernel, by decide⟩, by decide⟩

/-- PARSE's clauses one by one: the buffers of V115, V116, V117, V118, V113, V110 and V111. -/
theorem witness_ParseChecksInOrderAndSlicesFields_checks :
    ([0x48, 0x5A, 4, 2, 1, 0x22, 0x6D] : List Byte).length < 8 ∧
    checksum ([0x48, 0x5A, 4, 2, 1, 0x22, 0x6D, 7] : List Byte) ≠ 0xA4#8 ∧
    (checksum ([0, 0, 4, 2, 1, 0x22, 0x6D, 7] : List Byte) = 0x48#8 ∧ ¬ (0x00#8 = 0x48#8 ∧ 0x00#8 = 0x5A#8)) ∧
    (checksum ([0x48, 0x5A, 5, 2, 1, 0x22, 0x6D, 7] : List Byte) = 0xB4#8 ∧ ¬ (5 + 5 = 9 ∧ 5 ≤ 252) ∧
      ¬ (5 + 5 < 9 ∧ 5 + 256 * 2 + 7 = 9 ∧ 252 ≤ 5 + 256 * 2)) ∧
    (checksum ([0x48, 0x5A, 3, 1, 2, 0x42, 0xFF] : List Byte) = 0x1D#8 ∧ (3 + 5 = 8 ∧ 3 ≤ 252) ∧
      (([] : List Byte).getD 0 0x00#8 = 0x00#8)) := by decide +kernel

/-- The success clauses in form 1 (V110, V111) and, at the threshold, in form 2: 259 bytes, `a` = 252. -/
theorem witness_ParseChecksInOrderAndSlicesFields_success :
    (8 ≤ F9.length ∧ checksum (F9.take 8) = F9.getD 8 0 ∧ (F9.getD 0 0 = 0x48#8 ∧ F9.getD 1 0 = 0x5A#8) ∧
      ((F9.getD 2 0).toNat + 5 = F9.length ∧ (F9.getD 2 0).toNat ≤ 252) ∧ ((F9.take 8).drop 7).getD 0 0 ≠ 0x00#8) ∧
    (252 + 5 < 259 ∧ (252 + 256 * 0) + 7 = 259 ∧ 252 ≤ 252 + 256 * 0) := by decide +kernel

theorem witness_ParseAcceptsOnlyEncodedFrames :
    Answers (.parse true F9) (block (.atMost 9))
        ([0x00#8, 0x01#8, 0x02#8, 0x01#8, 0x22#8, 0x6D#8, 0x07#8] ++ le32 ([] : List Byte).length ++ []) ∧
      (block (.atMost 9)).cfg.frameCapacity.exceededBy F9.length = false :=
  ⟨answers_of_last (by decide +kernel), by decide +kernel⟩

theorem witness_FramePseudoChainsPackerIntoEncode :
    ((block (.atMost 9)).port = .idle ∧ (block (.atMost 9)).pending = [] ∧ (block (.atMost 9)).inputs = [] ∧
      ([] : List Byte).length < 2 ^ 32 ∧ (block (.atMost 9)).cfg.frameCapacity.exceededBy ([] : List Byte).length = false) ∧
    Answers (.optPack 0 0 2 0 1 0) (block (.atMost 9)) [0x00, 0x22] ∧
    Answers (.encode 2 1 0x22 1901 []) (block (.atMost 9)) ([0x00#8] ++ le32 F9.length ++ F9) ∧
    Answers (.optPack 0 0 4 0 1 0) (block (.atMost 9)) [0x01, 0x02] :=
  ⟨by decide, answers_of_last (by decide +kernel), answers_of_last (by decide +kernel), answers_of_last (by decide +kernel)⟩

/-- FRAME_CAPACITY 8 admits the reordered sequence of 5 bytes, 7 does not (C11). -/
theorem witness_Crc32FullPseudoComputesTheChecksumRegister :
    let seq : List Byte := [1, 2, 3, 4, 5]
    ((block (.atMost 8)).port = .idle ∧ (block (.atMost 8)).pending = [] ∧ (block (.atMost 8)).inputs = [] ∧
      4 * ((seq.length + 3) / 4) < 2 ^ 32 ∧ (block (.atMost 8)).cfg.frameCapacity.exceededBy seq.length = false ∧
      (block (.atMost 8)).cfg.frameCapacity.exceededBy (reorder seq).length = false) ∧
    ((block (.atMost 7)).cfg.frameCapacity.exceededBy seq.length = false ∧
      (block (.atMost 7)).cfg.frameCapacity = .atMost 7 ∧ 7 < (reorder seq).length) := by decide +kernel

end Sys2Proof.Tests
end

section
/-! SUPPORT. The serialization of R81 by division, and the statement about it. -/

namespace Sys2Proof

open Sys2Proof.Machine

/-- The byte of a word that starts at bit `k`, by division. -/
theorem extractLsb'_eq_ofNat {n : Nat} (v : BitVec n) (k : Nat) :
    v.extractLsb' k 8 = BitVec.ofNat 8 (v.toNat / 2 ^ k) := by
  rw [← Nat.shiftRight_eq_div_pow]
  rfl

theorem u16Bytes_eq (v : Half) : u16Bytes v = [BitVec.ofNat 8 v.toNat, BitVec.ofNat 8 (v.toNat / 256)] := by
  simp [u16Bytes, extractLsb'_eq_ofNat]

theorem u32Bytes_eq_le32 (v : Word) : u32Bytes v = le32 v.toNat := by
  simp [u32Bytes, le32, extractLsb'_eq_ofNat]

/-- The count of a byte sequence that R81 can serialize is its length. -/
theorem countWord_toNat {n : Nat} (h : n < 2 ^ 32) : (countWord n).toNat = n := by
  rw [countWord, if_pos h, BitVec.toNat_ofNat, Nat.mod_eq_of_lt h]

theorem bytesField_eq_le32 {s : List Byte} (h : s.length < 2 ^ 32) : bytesField s = le32 s.length ++ s := by
  rw [bytesField, u32Bytes_eq_le32, countWord_toNat h]

theorem readBool_malformed {b : Byte} (h : 2 ≤ b.toNat) (rest : List Byte) : readBool (b :: rest) = none := by
  have h0 : b ≠ 0x00#8 := by rintro rfl; exact absurd h (by decide)
  have h1 : b ≠ 0x01#8 := by rintro rfl; exact absurd h (by decide)
  simp only [readBool, if_neg h0, if_neg h1]

/-- Settles O19: each writer of R81 by division, and the readers on what they refuse and on what was written. -/
theorem portTypesAreSerializedLittleEndian : Obligations.PortTypesAreSerializedLittleEndian := by
  refine ⟨u16Bytes_eq, u32Bytes_eq_le32, rfl, rfl, fun b rest h => readBool_malformed h rest,
    fun s h => bytesField_eq_le32 h, fun s rest h => ?_⟩
  rw [← bytesField_eq_le32 h]
  exact readBytes_bytesField h rest

end Sys2Proof
end

section
/-! SUPPORT. The opcode map of R82 as an equivalence, what a request that decodes looks like, and the statement about
the two. -/

namespace Sys2Proof

theorem ofOpcode_eq_some_iff (op : Byte) (m : Mnemonic) : Mnemonic.ofOpcode op = some m ↔ m.opcode = op :=
  ⟨opcode_of_ofOpcode, fun h => h ▸ ofOpcode_opcode m⟩

/-- The illegal space of R82 and R86. -/
theorem ofOpcode_eq_none_iff (op : Byte) : Mnemonic.ofOpcode op = none ↔ op.toNat = 0 ∨ 11 ≤ op.toNat := by
  constructor
  · intro h
    by_contra hop
    unfold Mnemonic.ofOpcode at h
    generalize op.toNat = n at h hop
    have hlo : 1 ≤ n := by omega
    have hhi : n ≤ 10 := by omega
    interval_cases n <;> cases h
  · intro hop
    cases h : Mnemonic.ofOpcode op with
    | none => rfl
    | some m =>
      obtain ⟨hlo, hhi⟩ := opcode_range m
      rw [opcode_of_ofOpcode h] at hlo hhi
      omega

/-- The operand list of a command is read as that command (R83). -/
theorem readOperands_mnemonic {m : Mnemonic} {s rest : List Byte} {i : Instr}
    (h : readOperands m s = some (i, rest)) : i.mnemonic = m := by
  cases m with
  | optPack | optUnpack =>
    dsimp only [readOperands] at h
    split at h <;> cases h
    rfl
  | lenEncode | lenDecode | reorder | crc32Engine | checksum | validate =>
    obtain ⟨_, _, h⟩ := Option.map_eq_some_iff.mp h
    cases h
    rfl
  | encode =>
    dsimp only [readOperands] at h
    split at h
    · obtain ⟨_, _, h⟩ := Option.bind_eq_some_iff.mp h
      obtain ⟨_, _, h⟩ := Option.map_eq_some_iff.mp h
      cases h
      rfl
    · cases h
  | parse =>
    obtain ⟨_, _, h⟩ := Option.bind_eq_some_iff.mp h
    obtain ⟨_, _, h⟩ := Option.map_eq_some_iff.mp h
    cases h
    rfl

/-- A request decodes to a command exactly when its first byte names a command whose operand list takes all the other
bytes and whose operand fits (R85). -/
theorem decode_cons_eq_ok_iff (cap : Capacity) (op : Byte) (operands : List Byte) (i : Instr) :
    decode cap (op :: operands) = .ok i ↔
      ∃ m, Mnemonic.ofOpcode op = some m ∧ readOperands m operands = some (i, []) ∧ i.fits cap = true := by
  cases hm : Mnemonic.ofOpcode op with
  | none => simp [decode, hm]
  | some m =>
    cases hr : readOperands m operands with
    | none => simp [decode, hm, hr]
    | some p =>
      obtain ⟨j, rest⟩ := p
      by_cases hrest : rest = []
      · by_cases hfit : j.fits cap = true
        · simpa [decode, hm, hr, hrest, hfit] using fun hji => hji ▸ hfit
        · simpa [decode, hm, hr, hrest, hfit] using fun hji => hji ▸ eq_false_of_ne_true hfit
      · simp [decode, hm, hr, hrest]

theorem decode_illegalCommand (cap : Capacity) {op : Byte} (h : op.toNat = 0 ∨ 11 ≤ op.toNat)
    (operands : List Byte) : decode cap (op :: operands) = .error ⟨.illegalCommand, op⟩ := by
  simp only [decode, (ofOpcode_eq_none_iff op).mpr h]

/-- What decodes to a command begins with that command's opcode (R82). -/
theorem opcode_of_decode {cap : Capacity} {op : Byte} {operands : List Byte} {i : Instr}
    (h : decode cap (op :: operands) = .ok i) : i.mnemonic.opcode = op := by
  obtain ⟨m, hm, hr, -⟩ := (decode_cons_eq_ok_iff cap op operands i).mp h
  rw [readOperands_mnemonic hr]
  exact opcode_of_ofOpcode hm

/-- Settles O18: the map is a bijection onto the legal bytes, and both `encode` and `decode` go through it. -/
theorem opcodeMapIsTheTable : Obligations.OpcodeMapIsTheTable :=
  ⟨⟨rfl, rfl, rfl, rfl, rfl, rfl, rfl, rfl, rfl, rfl⟩, ofOpcode_eq_some_iff, ofOpcode_eq_none_iff, fun _ => rfl,
    fun _ _ _ _ => opcode_of_decode, fun cap _ operands h => decode_illegalCommand cap h operands⟩

end Sys2Proof
end

section
/-! SUPPORT. What ENCODE answers is the wire frame of R60: the model's core body with its length field inserted is
`wireBody`, and a message that meets ENCODE's conditions is answered with its `wireFrame`. -/

namespace Sys2Proof

open Sys2Proof.Machine

variable {dest src opt : Byte} {code : Word} {payload : List Byte}

/-! ## The two bytes of the code (R171) -/

theorem lscOf_eq (code : Word) : lscOf code = BitVec.ofNat 8 (code.toNat % 256) := by
  apply BitVec.eq_of_toNat_eq
  simp [lscOf]

theorem mscOf_eq (code : Word) : mscOf code = BitVec.ofNat 8 (code.toNat / 256) := extractLsb'_eq_ofNat code 8

/-- A code in range has an `msc` exactly when it does not fit one byte. -/
theorem mscOf_ne_zero_iff (hc : code.toNat ≤ 65535) : mscOf code ≠ 0x00#8 ↔ 255 < code.toNat := by
  rw [mscOf_eq, ne_eq, BitVec.toNat_eq, BitVec.toNat_ofNat, BitVec.toNat_ofNat]
  omega

/-! ## The core body and the frame -/

theorem coreBody_length_eq_messageCoreLength (hc : code.toNat ≤ 65535) :
    (coreBody dest src opt code payload).length = messageCoreLength code payload := by
  simp only [coreBody_length, messageCoreLength, mscOf_ne_zero_iff hc]

/-- The length field goes behind the first two bytes (R173). -/
theorem insertField_cons_cons (a b : Byte) (rest field : List Byte) :
    insertField (a :: b :: rest) field = [a, b] ++ field ++ rest := by
  simp [insertField, slice]

theorem frameBody_coreBody (hc : code.toNat ≤ 65535) :
    frameBody (coreBody dest src opt code payload) = wireBody dest src opt code payload := by
  rw [frameBody, coreBody_length_eq_messageCoreLength hc]
  simp only [coreBody, mscOf_ne_zero_iff hc]
  simp only [delimiters, List.cons_append, List.nil_append, insertField_cons_cons, lscOf_eq, mscOf_eq, wireBody,
    lengthField, List.append_assoc]

/-- The part of a wire frame behind its length field: header, payload and checksum byte. -/
def wireTail (dest src opt : Byte) (code : Word) (payload : List Byte) : List Byte :=
  [dest, src, opt, BitVec.ofNat 8 (code.toNat % 256)]
    ++ (if 255 < code.toNat then [BitVec.ofNat 8 (code.toNat / 256)] else []) ++ payload
    ++ [checksum (wireBody dest src opt code payload)]

theorem wireFrame_eq_append_wireTail (dest src opt : Byte) (code : Word) (payload : List Byte) :
    wireFrame dest src opt code payload
      = [0x48#8, 0x5A#8] ++ lengthField (messageCoreLength code payload) ++ wireTail dest src opt code payload := by
  simp only [wireFrame, wireBody, wireTail, lengthField, List.append_assoc]

theorem wireTail_length (dest src opt : Byte) (code : Word) (payload : List Byte) :
    (wireTail dest src opt code payload).length = messageCoreLength code payload - 1 := by
  simp only [wireTail, messageCoreLength]
  split <;> simp <;> omega

/-- The length field and the checksum byte are what a frame has beyond its core (R63). -/
theorem wireFrame_length (dest src opt : Byte) (code : Word) (payload : List Byte) :
    (wireFrame dest src opt code payload).length
      = messageCoreLength code payload + (if messageCoreLength code payload ≤ 255 then 2 else 3) := by
  have hmin : 6 ≤ messageCoreLength code payload := by unfold messageCoreLength; omega
  simp only [wireFrame_eq_append_wireTail, List.length_append, lengthField_length, wireTail_length, List.length_cons,
    List.length_nil]
  split <;> omega

/-- ENCODE completes with the wire frame of every message that meets its conditions (R174). -/
theorem exec_encode_of_encodable {s : State} (h : Encodable s.cfg.frameCapacity dest src opt code payload) :
    exec (.encode dest src opt code payload) s
      = .next (s.finish (.ok (bytesField (wireFrame dest src opt code payload)))) := by
  obtain ⟨hc, hlen, hcap⟩ := h
  have hcore := coreBody_length_eq_messageCoreLength (dest := dest) (src := src) (opt := opt) (payload := payload) hc
  have hframe : wireFrame dest src opt code payload = frameBody (coreBody dest src opt code payload)
      ++ [checksum (frameBody (coreBody dest src opt code payload))] := by
    rw [frameBody_coreBody hc, wireFrame]
  rw [exec_encode_finished s dest src opt code payload _ _ (by omega) rfl (by rw [coreBody_length]; omega)
    (by omega) hframe]
  simp only [hcap, Bool.false_eq_true, if_false]

theorem answers_encode_of_encodable {s : State} (h : Encodable s.cfg.frameCapacity dest src opt code payload) :
    Answers (.encode dest src opt code payload) s
      ([0x00#8] ++ le32 (wireFrame dest src opt code payload).length ++ wireFrame dest src opt code payload) := by
  have hlt : (wireFrame dest src opt code payload).length < 2 ^ 32 := by
    obtain ⟨-, hlen, -⟩ := h
    rw [wireFrame_length]
    split <;> omega
  rw [answers_iff (exec_encode_of_encodable h), responseBytes, bytesField_eq_le32 hlt]
  rfl

end Sys2Proof
end

section
/-! SUPPORT. The offsets of R62 to R64. The tail of a wire frame, behind its length field, has the same
layout in both length forms, so its offsets are found once and shifted by the length of what stands before it. -/

namespace Sys2Proof

open Sys2Proof.Machine

/-- The fields of a frame stand in order from `off` on, where its first `off` bytes end with the length field. -/
theorem getElem?_append_wireTail (pre : List Byte) (dest src opt : Byte) (code : Word) (payload : List Byte)
    {off m : Nat} (hoff : pre.length = off) (hm : m = if 255 < code.toNat then 1 else 0) :
    let f := pre ++ wireTail dest src opt code payload
    f[off]? = some dest ∧ f[off + 1]? = some src ∧ f[off + 2]? = some opt ∧
      f[off + 3]? = some (BitVec.ofNat 8 (code.toNat % 256)) ∧
      (m = 1 → f[off + 4]? = some (BitVec.ofNat 8 (code.toNat / 256))) ∧
      ∀ k, k < payload.length → f[off + 4 + m + k]? = payload[k]? := by
  intro f
  have shift (j : Nat) : f[off + j]? = (wireTail dest src opt code payload)[j]? := by
    rw [← hoff]
    exact List.getElem?_append_right (by omega) |>.trans (by rw [Nat.add_sub_cancel_left])
  refine ⟨shift 0, shift 1, shift 2, shift 3, fun h1 => ?_, fun k hk => ?_⟩
  · have hcode : 255 < code.toNat := by
      by_contra hcode
      rw [if_neg hcode] at hm
      omega
    rw [shift, wireTail, if_pos hcode]
    rfl
  · rw [show off + 4 + m + k = off + (4 + m + k) by omega, shift, wireTail, hm]
    split <;> simp [Nat.add_comm _ k, List.getElem?_append_left hk]

/-- The last byte of a wire frame is the checksum of all before it (R64). -/
theorem wireFrame_getElem?_last (dest src opt : Byte) (code : Word) (payload : List Byte) :
    let f := wireFrame dest src opt code payload
    f[f.length - 1]? = some (checksum (f.take (f.length - 1))) := by
  simp [wireFrame]

/-- The two length bytes hold `core_len - 4`, low byte first (R120). -/
theorem toNat_low_byte_add_high_byte {n : Nat} (h : n < 65536) :
    (BitVec.ofNat 8 (n % 256)).toNat + 256 * (BitVec.ofNat 8 (n / 256)).toNat = n := by
  simp only [BitVec.toNat_ofNat]
  omega

/-- Settles O41: the answer is the wire frame; its length field's form fixes the offset of the tail. -/
theorem encodedFrameLayout : Obligations.EncodedFrameLayout := by
  intro s dest src opt code payload henc
  refine ⟨wireFrame dest src opt code payload, answers_encode_of_encodable henc, ?_⟩
  intro m coreLen
  obtain ⟨-, hmax, -⟩ := henc
  have hcoreLen : messageCoreLength code payload = coreLen := rfl
  have hmin : 6 ≤ coreLen := by omega
  have hlen := wireFrame_length dest src opt code payload
  have heq := wireFrame_eq_append_wireTail dest src opt code payload
  rw [hcoreLen] at hlen heq hmax
  refine ⟨rfl, rfl, wireFrame_getElem?_last dest src opt code payload, fun hshort => ?_, fun hlong => ?_⟩
  · rw [if_pos hshort] at hlen
    rw [lengthField, if_pos hshort] at heq
    refine ⟨hlen, by omega, by omega, ?_, ?_⟩
    · rw [hlen, heq]; rfl
    · rw [heq]
      exact getElem?_append_wireTail _ dest src opt code payload rfl rfl
  · rw [if_neg (by omega)] at hlen
    rw [lengthField, if_neg (by omega)] at heq
    refine ⟨hlen, by omega, by omega, ⟨_, _, by rw [heq]; rfl, by rw [heq]; rfl, ?_⟩, ?_⟩
    · rw [toNat_low_byte_add_high_byte (by omega), hlen]
      omega
    · rw [heq]
      exact getElem?_append_wireTail _ dest src opt code payload rfl rfl

end Sys2Proof
end

section
/-! SUPPORT. The worked ENCODE example of R89. -/

namespace Sys2Proof

open Sys2Proof.Machine

/-- A capacity that admits a sequence admits every shorter one. -/
theorem Capacity.exceededBy_of_le {cap : Capacity} {k n : Nat} (hkn : k ≤ n) (h : cap.exceededBy n = false) :
    cap.exceededBy k = false := by
  cases cap with
  | unbounded => rfl
  | atMost c =>
    simp only [Capacity.exceededBy, decide_eq_false_iff_not] at h ⊢
    omega

/-- An `Idle` port answers a request that decodes with the response its command ends in (R85, last line). -/
theorem portAnswers_of_decode {req : List Byte} {s : State} {i : Instr} {r : Response} (hp : s.port = .idle)
    (hd : decode s.cfg.frameCapacity req = .ok i) (hx : exec i s = .next (s.finish r)) :
    PortAnswers req s (responseBytes r) := by
  refine (portAnswers_iff hp ?_ _).mpr rfl
  simp only [serve, hd, hx]

/-- The example's frame, with its checksum computed (R89). -/
theorem wireFrame_example :
    wireFrame 2 1 0x22 1901 [] = [0x48#8, 0x5A#8, 0x04#8, 0x02#8, 0x01#8, 0x22#8, 0x6D#8, 0x07#8, 0xA5#8] := by
  decide +kernel

/-- Settles O22: the request decodes to the message, which is encodable, and its wire frame is the example's. -/
theorem workedEncodeExample : Obligations.WorkedEncodeExample := by
  refine ⟨by decide, fun s hport hcap => ?_⟩
  have hfits : (Instr.encode 2 1 0x22 1901 []).fits s.cfg.frameCapacity = true := by
    rw [Instr.fits, Bool.not_eq_true']
    exact Capacity.exceededBy_of_le (Nat.zero_le 9) hcap
  have hdecode := (decode_cons_eq_ok_iff s.cfg.frameCapacity 0x08
    [0x02, 0x01, 0x22, 0x6D, 0x07, 0x00, 0x00, 0x00, 0x00, 0x00, 0x00] _).mpr ⟨.encode, rfl, by decide, hfits⟩
  have henc : Encodable s.cfg.frameCapacity 2 1 0x22 1901 [] :=
    ⟨by decide, by decide, by rw [wireFrame_example]; exact hcap⟩
  have hanswer := portAnswers_of_decode hport hdecode (exec_encode_of_encodable henc)
  rw [wireFrame_example] at hanswer
  exact hanswer

end Sys2Proof
end

section
/-! SUPPORT. The options packer on numbers: OPT_UNPACK's fields by division, OPT_PACK's byte as a sum of shifted
fields, its first bad field by position, and the statements about the two. -/

namespace Sys2Proof

open Sys2Proof.Machine

/-! ## The fields of a byte (R104) -/

/-- A field of a byte, by division. -/
theorem byteField_eq_ofNat (v : Byte) (lo width : Nat) :
    byteField v lo width = BitVec.ofNat 8 (v.toNat / 2 ^ lo % 2 ^ width) := by
  apply BitVec.eq_of_toNat_eq
  simp [byteField, Nat.shiftRight_eq_div_pow]

theorem optUnpack_eq (opt : Byte) :
    optUnpack opt =
      { ef := BitVec.ofNat 8 (opt.toNat / 128)
        sb := BitVec.ofNat 8 (opt.toNat / 64 % 2)
        tr := BitVec.ofNat 8 (opt.toNat / 16 % 4)
        rs := BitVec.ofNat 8 (opt.toNat / 8 % 2)
        rp := BitVec.ofNat 8 (opt.toNat / 2 % 4)
        nm := BitVec.ofNat 8 (opt.toNat % 2) } := by
  have htop : opt.toNat / 128 % 2 = opt.toNat / 128 := by omega
  simp [optUnpack, byteField_eq_ofNat, htop]

/-- Settles O24: OPT_UNPACK completes in every state, and its fields are found by division. -/
theorem optUnpackSplitsEveryByte : Obligations.OptUnpackSplitsEveryByte := by
  intro s opt
  rw [answers_iff (exec_optUnpack s opt), optUnpack_eq]
  rfl

/-! ## The first field that does not fit (R101, R212) -/

/-- Behind fields that fit, a field that does not is the one reported. -/
theorem firstBadField_append_cons {good rest : List (Byte × Nat)} {v : Byte} {width : Nat}
    (hgood : ∀ p ∈ good, p.1.toNat < 2 ^ p.2) (hbad : 2 ^ width ≤ v.toNat) (start : Nat) :
    firstBadField start (good ++ (v, width) :: rest) = some (start + good.length) := by
  induction good generalizing start with
  | nil => exact if_pos hbad
  | cons p good ih =>
    obtain ⟨hp, hgood⟩ := List.forall_mem_cons.mp hgood
    rw [List.cons_append, firstBadField, if_neg (Nat.not_le.mpr hp), ih hgood, List.length_cons]
    congr 1
    omega

theorem firstBadField_eq_none_iff (start : Nat) (fields : List (Byte × Nat)) :
    firstBadField start fields = none ↔ ∀ p ∈ fields, p.1.toNat < 2 ^ p.2 := by
  induction fields generalizing start with
  | nil => simp [firstBadField]
  | cons p rest ih =>
    rw [List.forall_mem_cons, ← ih (start + 1), firstBadField]
    split
    · next hbad => simp [Nat.not_lt.mpr hbad]
    · next hfit => simp [Nat.not_le.mp hfit]

/-- All six fields fit their widths (R100). -/
def OptionFields.Fit (f : OptionFields) : Prop :=
  f.ef.toNat < 2 ∧ f.sb.toNat < 2 ∧ f.tr.toNat < 4 ∧ f.rs.toNat < 2 ∧ f.rp.toNat < 4 ∧ f.nm.toNat < 2

theorem firstBadField_packingOrder_eq_none_iff (f : OptionFields) :
    firstBadField 0 (packingOrder f) = none ↔ f.Fit := by
  simp [firstBadField_eq_none_iff, packingOrder, OptionFields.Fit]

/-! ## The packed byte (R66) -/

theorem mul_two_pow_lt {v width : Nat} (k : Nat) (hv : v < 2 ^ width) : 2 ^ k * v < 2 ^ (width + k) := by
  rw [Nat.pow_add, Nat.mul_comm]
  exact Nat.mul_lt_mul_of_pos_right hv (Nat.two_pow_pos k)

/-- A value whose shift stays inside the byte loses no bit. -/
theorem toNat_shiftLeft_of_lt {v : Byte} {width k : Nat} (hv : v.toNat < 2 ^ width) (hk : width + k ≤ 8) :
    (v <<< k).toNat = 2 ^ k * v.toNat := by
  rw [BitVec.toNat_shiftLeft, Nat.shiftLeft_eq, Nat.mul_comm]
  exact Nat.mod_eq_of_lt ((mul_two_pow_lt k hv).trans_le (Nat.pow_le_pow_right Nat.two_pos hk))

/-- A field that fits its width, put directly below what is packed so far, adds its shifted value. -/
theorem toNat_or_shiftLeft {x v : Byte} {n width k : Nat} (hx : x.toNat = 2 ^ (width + k) * n)
    (hv : v.toNat < 2 ^ width) (hk : width + k ≤ 8) :
    (x ||| v <<< k).toNat = 2 ^ k * (2 ^ width * n + v.toNat) := by
  rw [BitVec.toNat_or, toNat_shiftLeft_of_lt hv hk, hx, ← Nat.two_pow_add_eq_or_of_lt (mul_two_pow_lt k hv)]
  ring

/-- Fields that fit are packed side by side, so their shifted values add up. -/
theorem toNat_packByte {f : OptionFields} (h : f.Fit) :
    (packByte f).toNat = 128 * f.ef.toNat + 64 * f.sb.toNat + 16 * f.tr.toNat + 8 * f.rs.toNat + 2 * f.rp.toNat
      + f.nm.toNat := by
  obtain ⟨hef, hsb, htr, hrs, hrp, hnm⟩ := h
  have ef := toNat_shiftLeft_of_lt (width := 1) (k := 7) hef (by decide)
  have sb := toNat_or_shiftLeft (width := 1) (k := 6) ef hsb (by decide)
  have tr := toNat_or_shiftLeft (width := 2) (k := 4) sb htr (by decide)
  have rs := toNat_or_shiftLeft (width := 1) (k := 3) tr hrs (by decide)
  have rp := toNat_or_shiftLeft (width := 2) (k := 1) rs hrp (by decide)
  have nm := toNat_or_shiftLeft (width := 1) (k := 0) rp hnm (by decide)
  rw [BitVec.shiftLeft_zero] at nm
  rw [packByte, nm]
  omega

/-! ## OPT_PACK (R101) -/

theorem optPack_of_fit {f : OptionFields} (h : f.Fit) : optPack f = .ok (packByte f) := by
  rw [optPack, (firstBadField_packingOrder_eq_none_iff f).mpr h]

theorem fit_of_optPack {f : OptionFields} {opt : Byte} (h : optPack f = .ok opt) : f.Fit := by
  rw [← firstBadField_packingOrder_eq_none_iff]
  cases hbad : firstBadField 0 (packingOrder f) with
  | none => rfl
  | some i =>
    rw [optPack, hbad] at h
    cases h

/-- OPT_PACK reports the position of a field that does not fit behind fields that do. -/
theorem answers_optPack_invalidField (s : State) {ef sb tr rs rp nm v : Byte} {width : Nat}
    (good : List (Byte × Nat)) {rest : List (Byte × Nat)}
    (hsplit : packingOrder ⟨ef, sb, tr, rs, rp, nm⟩ = good ++ (v, width) :: rest)
    (hgood : ∀ p ∈ good, p.1.toNat < 2 ^ p.2) (hbad : 2 ^ width ≤ v.toNat) :
    Answers (.optPack ef sb tr rs rp nm) s [0x01#8, BitVec.ofNat 8 good.length] := by
  rw [answers_iff (exec_optPack s ef sb tr rs rp nm), optPack, hsplit, firstBadField_append_cons hgood hbad,
    Nat.zero_add]
  rfl

/-- Settles O23: fields that fit are packed into their sum; otherwise `packingOrder` splits at the first bad field. -/
theorem optPackPacksOrReportsFirstBadField : Obligations.OptPackPacksOrReportsFirstBadField := by
  intro s ef sb tr rs rp nm
  refine ⟨fun hef hsb htr hrs hrp hnm => ?_, fun hef => ?_, fun hef hsb => ?_, fun hef hsb htr => ?_,
    fun hef hsb htr hrs => ?_, fun hef hsb htr hrs hrp => ?_, fun hef hsb htr hrs hrp hnm => ?_⟩
  · have hfit : OptionFields.Fit ⟨ef, sb, tr, rs, rp, nm⟩ := ⟨hef, hsb, htr, hrs, hrp, hnm⟩
    rw [answers_iff (exec_optPack s ef sb tr rs rp nm), optPack_of_fit hfit, ← toNat_packByte hfit,
      BitVec.ofNat_toNat, BitVec.setWidth_eq]
    rfl
  · exact answers_optPack_invalidField s [] rfl (by simp) hef
  · exact answers_optPack_invalidField s [(ef, 1)] rfl (by simp [hef]) hsb
  · exact answers_optPack_invalidField s [(ef, 1), (sb, 1)] rfl (by simp [hef, hsb]) htr
  · exact answers_optPack_invalidField s [(ef, 1), (sb, 1), (tr, 2)] rfl (by simp [hef, hsb, htr]) hrs
  · exact answers_optPack_invalidField s [(ef, 1), (sb, 1), (tr, 2), (rs, 1)] rfl (by simp [hef, hsb, htr, hrs]) hrp
  · exact answers_optPack_invalidField s [(ef, 1), (sb, 1), (tr, 2), (rs, 1), (rp, 2)] rfl
      (by simp [hef, hsb, htr, hrs, hrp]) hnm

/-! ## The round trip (R105) -/

theorem optUnpack_packByte {f : OptionFields} (h : f.Fit) : optUnpack (packByte f) = f := by
  have hsum := toNat_packByte h
  obtain ⟨hef, hsb, htr, hrs, hrp, hnm⟩ := h
  obtain ⟨ef, sb, tr, rs, rp, nm⟩ := f
  rw [optUnpack_eq, OptionFields.mk.injEq]
  simp only [BitVec.toNat_eq, BitVec.toNat_ofNat]
  simp only at hsum hef hsb htr hrs hrp hnm
  omega

theorem optUnpack_fit (opt : Byte) : (optUnpack opt).Fit := by
  simp only [optUnpack_eq, OptionFields.Fit, BitVec.toNat_ofNat]
  omega

theorem packByte_optUnpack (opt : Byte) : packByte (optUnpack opt) = opt := by
  apply BitVec.eq_of_toNat_eq
  rw [toNat_packByte (optUnpack_fit opt), optUnpack_eq]
  simp only [BitVec.toNat_ofNat]
  omega

/-- OPT_PACK is the inverse of OPT_UNPACK: it answers a byte exactly for that byte's fields. -/
theorem optPack_eq_ok_iff (f : OptionFields) (opt : Byte) : optPack f = .ok opt ↔ optUnpack opt = f := by
  constructor
  · intro h
    have hfit := fit_of_optPack h
    obtain rfl : packByte f = opt := Except.ok.inj ((optPack_of_fit hfit).symm.trans h)
    exact optUnpack_packByte hfit
  · rintro rfl
    rw [optPack_of_fit (optUnpack_fit opt), packByte_optUnpack]

theorem statusByte_ne_zero (e : ErrorStatus) : statusByte e ≠ 0x00#8 := by cases e <;> decide

theorem answers_optPack_ok_iff (s : State) (ef sb tr rs rp nm opt : Byte) :
    Answers (.optPack ef sb tr rs rp nm) s [0x00#8, opt] ↔ optPack ⟨ef, sb, tr, rs, rp, nm⟩ = .ok opt := by
  rw [answers_iff (exec_optPack s ef sb tr rs rp nm)]
  cases optPack ⟨ef, sb, tr, rs, rp, nm⟩ with
  | ok v => simp [respond, u8Result, responseBytes, eq_comm]
  | error e => simp [respond, responseBytes, (statusByte_ne_zero e.status).symm]

theorem answers_optUnpack_iff (s : State) (opt ef sb tr rs rp nm : Byte) :
    Answers (.optUnpack opt) s [0x00#8, ef, sb, tr, rs, rp, nm] ↔ optUnpack opt = ⟨ef, sb, tr, rs, rp, nm⟩ := by
  rw [answers_iff (exec_optUnpack s opt)]
  cases optUnpack opt
  simp [optionFieldsResult, responseBytes, eq_comm]

theorem answers_optPack_iff_answers_optUnpack (s : State) (ef sb tr rs rp nm opt : Byte) :
    Answers (.optPack ef sb tr rs rp nm) s [0x00#8, opt] ↔
      Answers (.optUnpack opt) s [0x00#8, ef, sb, tr, rs, rp, nm] := by
  rw [answers_optPack_ok_iff, answers_optUnpack_iff, optPack_eq_ok_iff]

/-- Settles O25: both answers say that the six fields are the byte's. -/
theorem packAndUnpackAreInverse : Obligations.PackAndUnpackAreInverse :=
  ⟨fun s ef sb tr rs rp nm opt => (answers_optPack_iff_answers_optUnpack s ef sb tr rs rp nm opt).mp,
    fun s opt ef sb tr rs rp nm => (answers_optPack_iff_answers_optUnpack s ef sb tr rs rp nm opt).mpr⟩

end Sys2Proof
end

section
/-! SUPPORT. The frame-size encoder: the two forms of the length field, what LEN_ENCODE and LEN_DECODE answer, and the
statements about the two. -/

namespace Sys2Proof

open Sys2Proof.Machine

/-! ## LEN_ENCODE (R120 to R123) -/

theorem lengthField_of_le {n : Nat} (h : n ≤ 255) : lengthField n = [BitVec.ofNat 8 (n - 3)] := if_pos h

theorem lengthField_of_lt {n : Nat} (h : 255 < n) :
    lengthField n = [BitVec.ofNat 8 ((n - 4) % 256), BitVec.ofNat 8 ((n - 4) / 256)] :=
  if_neg (Nat.not_le.mpr h)

/-- LEN_ENCODE completes with the length field of every core length in range (R121). -/
theorem answers_lenEncode (s : State) {n : Word} (h₁ : 6 ≤ n.toNat) (h₂ : n.toNat ≤ 65539) :
    Answers (.lenEncode n) s ([0x00#8] ++ le32 (lengthField n.toNat).length ++ lengthField n.toNat) := by
  have hlen : (lengthField n.toNat).length < 2 ^ 32 := by
    rw [lengthField_length]
    split <;> decide
  rw [answers_iff (exec_lenEncode s n), lenEncode_ok h₁ h₂, respond, responseBytes, bytesField_eq_le32 hlen]
  rfl

theorem answers_lenEncode_outOfRange (s : State) {n : Word} (h : n.toNat < 6 ∨ 65539 < n.toNat) :
    Answers (.lenEncode n) s [0x05#8, 0x00#8] := by
  rw [answers_iff (exec_lenEncode s n), lenEncode_error h]
  rfl

/-- Settles O26: LEN_ENCODE answers the length field, which has one byte up to 255 and two above. -/
theorem lenEncodeChoosesFormByCoreLength : Obligations.LenEncodeChoosesFormByCoreLength := by
  intro s n
  refine ⟨fun hmin hone => ?_, fun htwo hmax => ?_, answers_lenEncode_outOfRange s⟩
  · have hanswer := answers_lenEncode s hmin (by omega)
    rwa [lengthField_of_le hone] at hanswer
  · have hanswer := answers_lenEncode s (by omega) hmax
    rwa [lengthField_of_lt htwo] at hanswer

/-- Settles O27: the bytes LEN_ENCODE answers in either form lose nothing of the value they hold. -/
theorem lengthFieldDecodesToCoreLength : Obligations.LengthFieldDecodesToCoreLength := by
  intro s n hmin hmax
  obtain ⟨hone, htwo, -⟩ := lenEncodeChoosesFormByCoreLength s n
  refine ⟨fun hn => ⟨_, hone hmin hn, ?_⟩, fun hn => ⟨_, _, htwo hn hmax, ?_⟩⟩
  · rw [BitVec.toNat_ofNat]
    omega
  · rw [Nat.mul_comm, toNat_low_byte_add_high_byte (by omega)]

/-! ## LEN_DECODE (R125) -/

theorem pairLE_toNat (lo hi : Byte) : (pairLE lo hi).toNat = lo.toNat + 256 * hi.toNat := by
  rw [pairLE, BitVec.toNat_append, ← Nat.shiftLeft_add_eq_or_of_lt lo.isLt, Nat.shiftLeft_eq]
  omega

theorem lenDecode_one_ok {len : Byte} (h₁ : 3 ≤ len.toNat) (h₂ : len.toNat ≤ 252) :
    lenDecode [len] = .ok (len.toNat + 3) := if_neg (by omega)

theorem lenDecode_one_error {len : Byte} (h : len.toNat < 3 ∨ 252 < len.toNat) :
    lenDecode [len] = .error ⟨.lengthOutOfRange, 0x00#8⟩ := if_pos h

theorem lenDecode_two_ok {lsl msl : Byte} (h : 252 ≤ lsl.toNat + 256 * msl.toNat) :
    lenDecode [lsl, msl] = .ok (lsl.toNat + 256 * msl.toNat + 4) := by
  rw [← pairLE_toNat] at h ⊢
  exact if_neg (Nat.not_lt.mpr h)

theorem lenDecode_two_error {lsl msl : Byte} (h : lsl.toNat + 256 * msl.toNat < 252) :
    lenDecode [lsl, msl] = .error ⟨.lengthOutOfRange, 0x00#8⟩ := by
  rw [← pairLE_toNat] at h
  exact if_pos h

theorem lenDecode_error_of_length {field : List Byte} (h₁ : field.length ≠ 1) (h₂ : field.length ≠ 2) :
    lenDecode field = .error ⟨.lengthOutOfRange, 0x00#8⟩ := by
  match field with
  | [] | _ :: _ :: _ :: _ => rfl
  | [_] => exact absurd rfl h₁
  | [_, _] => exact absurd rfl h₂

theorem answers_lenDecode (s : State) {field : List Byte} {n : Nat} (h : lenDecode field = .ok n) (hn : n < 2 ^ 32) :
    Answers (.lenDecode field) s ([0x00#8] ++ le32 n) := by
  rw [answers_iff (exec_lenDecode s field), h, respond, responseBytes, u32Bytes_eq_le32,
    BitVec.toNat_ofNat, Nat.mod_eq_of_lt hn]
  rfl

theorem answers_lenDecode_outOfRange (s : State) {field : List Byte}
    (h : lenDecode field = .error ⟨.lengthOutOfRange, 0x00#8⟩) :
    Answers (.lenDecode field) s [0x05#8, 0x00#8] := by
  rw [answers_iff (exec_lenDecode s field), h]
  rfl

/-- Settles O28: LEN_DECODE's answer is read off its rule, by the length of the field and the range of its value. -/
theorem lenDecodeAcceptsCanonicalFieldsOnly : Obligations.LenDecodeAcceptsCanonicalFieldsOnly :=
  ⟨fun s _ hlo hhi => answers_lenDecode s (lenDecode_one_ok hlo hhi) (by omega),
    fun s _ hout => answers_lenDecode_outOfRange s (lenDecode_one_error hout),
    fun s _ _ hlo => answers_lenDecode s (lenDecode_two_ok hlo) (by omega),
    fun s _ _ hlow => answers_lenDecode_outOfRange s (lenDecode_two_error hlow),
    fun s _ h₁ h₂ => answers_lenDecode_outOfRange s (lenDecode_error_of_length h₁ h₂)⟩

end Sys2Proof
end

section
/-! SUPPORT. The byte reorder (R140 to R142): where each byte goes, the reorder laws, what REORDER answers, and the
statements about it. -/

namespace Sys2Proof

open Sys2Proof.Machine

/-- Byte `j` of a group in the result is the operand's byte `3 - j` of that group, zero past its end (R141). -/
theorem reorder_getElem? (seq : List Byte) (g : Nat) {j : Nat} (hj : j < 4) (h : 4 * g + j < (reorder seq).length) :
    (reorder seq)[4 * g + j]? = some (seq.getD (4 * g + (3 - j)) 0x00#8) := by
  induction seq using reorder.induct generalizing g with
  | case1 => exact absurd h (Nat.not_lt_zero _)
  | case2 | case3 | case4 =>
    obtain rfl : g = 0 := by simp only [reorder_length, List.length_cons, List.length_nil] at h; omega
    interval_cases j <;> rfl
  | case5 a b c d rest ih =>
    cases g with
    | zero => interval_cases j <;> rfl
    | succ g =>
      have hrest : 4 * g + j < (reorder rest).length := by
        simp only [reorder_group, List.length_cons] at h
        omega
      rw [show 4 * (g + 1) + j = 4 * g + j + 4 by omega,
        show 4 * (g + 1) + (3 - j) = 4 * g + (3 - j) + 4 by omega]
      exact ih g hrest

/-- On whole groups the reorder undoes itself (R142). -/
theorem reorder_reorder {seq : List Byte} (h : seq.length % 4 = 0) : reorder (reorder seq) = seq := by
  induction seq using reorder.induct with
  | case1 => rfl
  | case2 | case3 | case4 => simp at h
  | case5 a b c d rest ih =>
    have hrest : rest.length % 4 = 0 := by simp only [List.length_cons] at h; omega
    rw [reorder_group, reorder_group, ih hrest]

/-- Zeros that only fill the last group are the padding the reorder puts there itself (R142). -/
theorem reorder_append_zeros {seq : List Byte} {j : Nat} (ht : 0 < seq.length % 4) (hj : j ≤ 4 - seq.length % 4) :
    reorder (seq ++ List.replicate j 0x00#8) = reorder seq := by
  induction seq using reorder.induct with
  | case1 => simp at ht
  | case2 | case3 | case4 =>
    simp only [List.length_cons, List.length_nil] at hj
    interval_cases j <;> rfl
  | case5 a b c d rest ih =>
    simp only [List.length_cons, Nat.add_assoc, Nat.reduceAdd, Nat.add_mod_right] at ht hj
    simp only [List.cons_append, reorder_group, ih ht hj]

theorem answers_reorder (s : State) (seq : List Byte) :
    Answers (.reorder seq) s (0x00#8 :: bytesField (reorder seq)) :=
  (answers_iff (exec_reorder s seq) _).mpr rfl

/-- Settles O30: REORDER answers the reordered operand behind its count. -/
theorem reorderReversesPaddedGroups : Obligations.ReorderReversesPaddedGroups := by
  intro s seq
  refine ⟨u32Bytes (countWord (reorder seq).length), reorder seq, answers_reorder s seq, rfl, fun hlen => ?_,
    reorder_length seq, fun g j hj h => reorder_getElem? seq g hj h⟩
  rw [u32Bytes_eq_le32, countWord_toNat hlen]

/-- Settles O31: the two laws hold group by group, and the checksum of one group runs over it reversed. -/
theorem reorderLaws : Obligations.ReorderLaws :=
  ⟨fun _ h => reorder_reorder h, fun _ _ ht hj => reorder_append_zeros ht hj, fun _ _ _ _ => rfl⟩

end Sys2Proof
end

section
/-! SUPPORT. The CRC register and the checksum: the byte step bit by bit (R144), what CRC32_ENGINE and CHECKSUM answer
(R148, R152), and the statements about them. -/

namespace Sys2Proof

open Sys2Proof.Machine

/-! ## The register (R143 to R146) -/

/-- Bit `k` after one bit step: the bit below it, and the polynomial's bit when the top bit was set (R144). -/
theorem crcBit_getLsbD (w : Word) {k : Nat} (hk : k < 32) :
    (crcBit w).getLsbD k
      = ((decide (0 < k) && w.getLsbD (k - 1)) ^^ (w.getLsbD 31 && (0x04C11DB7#32).getLsbD k)) := by
  have hshift : (w <<< 1).getLsbD k = (decide (0 < k) && w.getLsbD (k - 1)) := by
    simp only [BitVec.getLsbD_shiftLeft, hk, decide_true, Bool.true_and, ← decide_not, Nat.not_lt, Nat.succ_le_iff]
  rw [crcBit]
  split <;> rename_i htop
  · rw [BitVec.getLsbD_xor, hshift, htop, Bool.true_and]
  · rw [hshift, Bool.eq_false_of_not_eq_true htop, Bool.false_and, Bool.xor_false]

/-- The byte step starts from the register with the byte XORed into its top eight bits (R144). -/
theorem xor_topByte_getLsbD (crc : Word) (b : Byte) {k : Nat} (hk : k < 32) :
    (crc ^^^ (b.setWidth 32 <<< 24)).getLsbD k = (crc.getLsbD k ^^ (decide (24 ≤ k) && b.getLsbD (k - 24))) := by
  have hwide : k - 24 < 32 := by omega
  simp only [BitVec.getLsbD_xor, BitVec.getLsbD_shiftLeft, BitVec.getLsbD_setWidth, hk, hwide, decide_true,
    Bool.true_and, ← decide_not, Nat.not_lt]

/-- The register `n` bit steps into the byte step (R144). -/
def crcAfterBits (crc : Word) (b : Byte) (n : Nat) : Word := iterate crcBit n (crc ^^^ (b.setWidth 32 <<< 24))

theorem crcAfterBits_succ (crc : Word) (b : Byte) (n : Nat) :
    crcAfterBits crc b (n + 1) = crcBit (crcAfterBits crc b n) := iterate_succ crcBit n _

theorem crcStep_eq_crcAfterBits (crc : Word) (b : Byte) : crcStep crc b = crcAfterBits crc b 8 := rfl

/-- Settles O32: the registers between the bit steps are `crcAfterBits`. -/
theorem crcByteStepIsEightTestedShifts : Obligations.CrcByteStepIsEightTestedShifts := by
  intro crc b
  refine ⟨crcAfterBits crc b, fun k hk => xor_topByte_getLsbD crc b hk, fun n _ k hk => ?_,
    crcStep_eq_crcAfterBits crc b⟩
  rw [crcAfterBits_succ, crcBit_getLsbD _ hk]

theorem crc32_concat (r : List Byte) (b : Byte) : crc32 (r ++ [b]) = crcStep (crc32 r) b := crc32_append r [b]

/-- Settles O34, by running the register. -/
theorem crc32CheckValues : Obligations.Crc32CheckValues := by
  refine ⟨crc32_nil, ?_, ?_, ?_⟩ <;> decide +kernel

/-! ## The commands (R148 to R154) -/

theorem answers_crc32Engine (s : State) (seq : List Byte) :
    Answers (.crc32Engine seq) s (0x00#8 :: u32Bytes (crc32 seq)) :=
  (answers_iff (exec_crc32Engine s seq) _).mpr rfl

theorem answers_checksum (s : State) (seq : List Byte) : Answers (.checksum seq) s [0x00#8, checksum seq] :=
  (answers_iff (exec_checksum s seq) _).mpr rfl

/-- Truncation to the low byte, by division (R149). -/
theorem lowByte_eq_ofNat (crc : Word) : lowByte crc = BitVec.ofNat 8 (crc.toNat % 256) := by
  rw [lowByte, extractLsb'_eq_ofNat, Nat.pow_zero, Nat.div_one]
  exact BitVec.eq_of_toNat_eq (by simp only [BitVec.toNat_ofNat, Nat.reducePow, Nat.mod_mod])

/-- Settles O33: CRC32_ENGINE answers the register's four bytes, and the register runs byte by byte. -/
theorem crc32EngineReturnsWholeRegister : Obligations.Crc32EngineReturnsWholeRegister := by
  refine ⟨crc32_nil, crc32_concat, fun s seq => ?_⟩
  rw [← u32Bytes_eq_le32]
  exact answers_crc32Engine s seq

/-- Settles O35: CHECKSUM answers `checksum`, the low byte of the register run over the reordered operand. -/
theorem checksumIsLowByteOfReorderedCrc : Obligations.ChecksumIsLowByteOfReorderedCrc := by
  intro s seq
  rw [← lowByte_eq_ofNat]
  exact answers_checksum s seq

/-- Settles O36: the first of the four bytes CRC32_ENGINE answers for the reordered operand is the checksum. -/
theorem checksumIsComposedOfItsCommands : Obligations.ChecksumIsComposedOfItsCommands :=
  fun s seq => ⟨u32Bytes (countWord (reorder seq).length), reorder seq, _, _, _, _, answers_reorder s seq, rfl,
    answers_crc32Engine s (reorder seq), answers_checksum s seq⟩

/-- Settles O37: the function is `checksum`, which sees its operand only reordered. -/
theorem checksumIgnoresPaddingZeros : Obligations.ChecksumIgnoresPaddingZeros := by
  refine ⟨checksum, answers_checksum, fun seq j ht hj => ?_⟩
  rw [checksum, reorder_append_zeros ht hj, checksum]

end Sys2Proof
end

section
/-! SUPPORT. ENCODE (R174): its three errors and its frame, and what an answer that counts its own bytes says. -/

namespace Sys2Proof

open Sys2Proof.Machine

variable {s : State} {dest src opt : Byte} {code : Word} {payload : List Byte}

/-- A command answers once. -/
theorem Answers.unique {i : Instr} {rsp₁ rsp₂ : List Byte} (h₁ : Answers i s rsp₁) (h₂ : Answers i s rsp₂) :
    rsp₁ = rsp₂ := by
  obtain ⟨r, hr⟩ := exec_finish s i
  exact ((answers_iff hr _).mp h₁).trans ((answers_iff hr _).mp h₂).symm

theorem answers_encode_codeOutOfRange (hc : 65535 < code.toNat) :
    Answers (.encode dest src opt code payload) s [0x02#8, 0x00#8] :=
  (answers_iff (exec_encode_codeOutOfRange s dest src opt code payload hc) _).mpr rfl

theorem answers_encode_lengthOutOfRange (hc : code.toNat ≤ 65535) (hlen : 65539 < messageCoreLength code payload) :
    Answers (.encode dest src opt code payload) s [0x05#8, 0x00#8] := by
  rw [← coreBody_length_eq_messageCoreLength (dest := dest) (src := src) (opt := opt) hc] at hlen
  exact (answers_iff (exec_encode_lengthOutOfRange s dest src opt code payload (by omega) hlen) _).mpr rfl

theorem answers_encode_capacityExceeded (hc : code.toNat ≤ 65535) (hlen : messageCoreLength code payload ≤ 65539)
    (hcap : s.cfg.frameCapacity.exceededBy (wireFrame dest src opt code payload).length = true) :
    Answers (.encode dest src opt code payload) s [0x06#8, 0x00#8] := by
  have hcore := coreBody_length_eq_messageCoreLength (dest := dest) (src := src) (opt := opt) (payload := payload) hc
  have hframe : wireFrame dest src opt code payload = frameBody (coreBody dest src opt code payload)
      ++ [checksum (frameBody (coreBody dest src opt code payload))] := by
    rw [frameBody_coreBody hc, wireFrame]
  rw [answers_iff (exec_encode_finished s dest src opt code payload _ _ (by omega) rfl
    (by rw [coreBody_length]; omega) (by omega) hframe), if_pos hcap]
  rfl

/-- Settles O40: the code, the core length and the frame's size are checked in order before the frame is answered. -/
theorem encodeBuildsTheWireFrame : Obligations.EncodeBuildsTheWireFrame :=
  fun _ _ _ _ _ _ => ⟨answers_encode_codeOutOfRange, answers_encode_lengthOutOfRange,
    answers_encode_capacityExceeded, answers_encode_of_encodable⟩

/-- ENCODE's answer begins with `0x00` only for a message that meets its conditions. -/
theorem encodable_of_answers_encode {result : List Byte}
    (h : Answers (.encode dest src opt code payload) s (0x00#8 :: result)) :
    Encodable s.cfg.frameCapacity dest src opt code payload := by
  have not_error {status detail : Byte} (hs : status ≠ 0x00#8) :
      ¬ Answers (.encode dest src opt code payload) s [status, detail] :=
    fun herr => hs (List.cons.inj (herr.unique h)).1
  have hc : code.toNat ≤ 65535 := by
    by_contra hc
    exact not_error (by decide) (answers_encode_codeOutOfRange (by omega))
  have hlen : messageCoreLength code payload ≤ 65539 := by
    by_contra hlen
    exact not_error (by decide) (answers_encode_lengthOutOfRange hc (by omega))
  refine ⟨hc, hlen, ?_⟩
  by_contra hcap
  exact not_error (by decide) (answers_encode_capacityExceeded hc hlen (Bool.eq_true_of_not_eq_false hcap))

/-- The bytes ENCODE answers behind their count are the wire frame of its operands. -/
theorem eq_wireFrame_of_answers_encode {f : List Byte}
    (h : Answers (.encode dest src opt code payload) s ([0x00#8] ++ le32 f.length ++ f)) :
    f = wireFrame dest src opt code payload := by
  have hframe := answers_encode_of_encodable (encodable_of_answers_encode h)
  exact (List.append_inj (h.unique hframe) rfl).2

end Sys2Proof
end

section
/-! SUPPORT. VALIDATE (R183 to R186): its answer is told by the buffer's length, its last byte and the checksum of the
bytes before it. -/

namespace Sys2Proof

open Sys2Proof.Machine

theorem slice_dropLast_append (body : List Byte) (last : Byte) :
    slice (body ++ [last]) 0 ((body ++ [last]).length - 1) = body := by
  simp [slice]

theorem byteAt_last_append (body : List Byte) (last : Byte) :
    byteAt (body ++ [last]) ((body ++ [last]).length - 1) = last := by
  simp [byteAt]

theorem answers_validate_short (s : State) {buf : List Byte} (h : buf.length < 8) :
    Answers (.validate buf) s [0x03#8, 0x00#8] :=
  (answers_iff (exec_validate_short s buf h) _).mpr rfl

theorem answers_validate_append_iff (s : State) {body : List Byte} {last : Byte}
    (h : 8 ≤ (body ++ [last]).length) (rsp : List Byte) :
    Answers (.validate (body ++ [last])) s rsp ↔ rsp = [0x00#8, boolByte (checksum body == last)] := by
  rw [answers_iff (exec_validate s _ (by omega)), slice_dropLast_append, byteAt_last_append]
  rfl

theorem answers_validate_valid (s : State) {body : List Byte} {last : Byte} (h : 8 ≤ (body ++ [last]).length)
    (hsum : checksum body = last) : Answers (.validate (body ++ [last])) s [0x00#8, 0x01#8] := by
  rw [answers_validate_append_iff s h, beq_iff_eq.mpr hsum]
  rfl

theorem answers_validate_invalid (s : State) {body : List Byte} {last : Byte} (h : 8 ≤ (body ++ [last]).length)
    (hsum : checksum body ≠ last) : Answers (.validate (body ++ [last])) s [0x00#8, 0x00#8] := by
  rw [answers_validate_append_iff s h, beq_false_of_ne hsum]
  rfl

theorem length_ge_of_answers_validate {s : State} {buf : List Byte}
    (h : Answers (.validate buf) s [0x00#8, 0x01#8]) : 8 ≤ buf.length := by
  by_contra hshort
  exact absurd (h.unique (answers_validate_short s (by omega))) (by decide)

/-- A buffer that VALIDATE accepts ends in the checksum of the bytes before it. -/
theorem checksum_eq_of_answers_validate {s : State} {body : List Byte} {last : Byte}
    (h : Answers (.validate (body ++ [last])) s [0x00#8, 0x01#8]) : checksum body = last := by
  by_contra hsum
  exact absurd (h.unique (answers_validate_invalid s (length_ge_of_answers_validate h) hsum)) (by decide)

/-- Settles O42: a valid buffer's last byte is the one checksum of its body, so any other last byte is invalid. -/
theorem validateChecksLengthAndChecksumOnly : Obligations.ValidateChecksLengthAndChecksumOnly := by
  intro s buf
  refine ⟨answers_validate_short s, ?_⟩
  rintro body last hlen rfl
  refine ⟨answers_validate_valid s hlen, answers_validate_invalid s hlen, fun other hvalid hother => ?_⟩
  rw [← checksum_eq_of_answers_validate hvalid] at hother
  exact answers_validate_invalid s (by simpa using hlen) hother.symm

theorem wireFrame_length_ge (dest src opt : Byte) (code : Word) (payload : List Byte) :
    8 ≤ (wireFrame dest src opt code payload).length := by
  have hmin : 6 ≤ messageCoreLength code payload := by unfold messageCoreLength; omega
  rw [wireFrame_length]
  split <;> omega

/-- Settles O43: what ENCODE answers is a wire frame, whose last byte is the checksum of its body. -/
theorem validateAcceptsEveryEncodedFrame : Obligations.ValidateAcceptsEveryEncodedFrame := by
  intro s s' dest src opt code payload f h
  obtain rfl := eq_wireFrame_of_answers_encode h
  exact answers_validate_valid s' (wireFrame_length_ge dest src opt code payload) rfl

end Sys2Proof
end

section
/-! SUPPORT. PARSE (R196): the length form, the tail behind `lsc`, and the checks in their order. -/

namespace Sys2Proof

open Sys2Proof.Machine

variable {buf : List Byte}

/-! ## The length form (R198) -/

theorem lengthForm_of_short (h : (byteAt buf 2).toNat + 5 = buf.length) (hmax : (byteAt buf 2).toNat ≤ 252) :
    lengthForm buf = .ok (0x01#8, 3) := by
  simp only [lengthForm, if_pos h, if_neg (Nat.not_lt.mpr hmax)]

theorem lengthForm_of_long (h : (byteAt buf 2).toNat + 5 < buf.length)
    (ha : (byteAt buf 2).toNat + 256 * (byteAt buf 3).toNat + 7 = buf.length)
    (hmin : 252 ≤ (byteAt buf 2).toNat + 256 * (byteAt buf 3).toNat) : lengthForm buf = .ok (0x02#8, 4) := by
  rw [← pairLE_toNat] at ha hmin
  have hagrees : ¬ ((pairLE (byteAt buf 2) (byteAt buf 3)).toNat + 7 ≠ buf.length ∨
      (pairLE (byteAt buf 2) (byteAt buf 3)).toNat < 252) := by omega
  simp only [lengthForm, if_neg (Nat.ne_of_lt h), if_pos h, if_neg hagrees]

theorem lengthForm_error (h₁ : ¬ ((byteAt buf 2).toNat + 5 = buf.length ∧ (byteAt buf 2).toNat ≤ 252))
    (h₂ : ¬ ((byteAt buf 2).toNat + 5 < buf.length ∧
      (byteAt buf 2).toNat + 256 * (byteAt buf 3).toNat + 7 = buf.length ∧
      252 ≤ (byteAt buf 2).toNat + 256 * (byteAt buf 3).toNat)) :
    lengthForm buf = .error ⟨.malformedFrame, 0x03#8⟩ := by
  rw [← pairLE_toNat] at h₂
  simp only [lengthForm, raise]
  split
  · exact if_pos (by omega)
  · split
    · exact if_pos (by omega)
    · rfl

/-! ## The tail (R197) -/

theorem splitTail_true_error {tail : List Byte} (h : tail.getD 0 0x00#8 = 0x00#8) :
    splitTail true tail = .error ⟨.malformedFrame, 0x04#8⟩ := by
  cases tail with
  | nil => rfl
  | cons msc payload => exact if_pos h

theorem splitTail_true_ok {tail : List Byte} (h : tail.getD 0 0x00#8 ≠ 0x00#8) :
    splitTail true tail = .ok (tail.getD 0 0x00#8, tail.tail) := by
  cases tail with
  | nil => exact absurd rfl h
  | cons msc payload => exact if_neg h

/-! ## The checks in order -/

theorem parseFields_not_delimited (expectMsc : Bool) (h : ¬ (byteAt buf 0 = 0x48#8 ∧ byteAt buf 1 = 0x5A#8)) :
    parseFields expectMsc buf = .error ⟨.malformedFrame, 0x02#8⟩ :=
  if_pos (not_and_or.mp h)

theorem parseFields_lengthForm_error (expectMsc : Bool) {e : CmdError}
    (hdelim : byteAt buf 0 = 0x48#8 ∧ byteAt buf 1 = 0x5A#8) (hform : lengthForm buf = .error e) :
    parseFields expectMsc buf = .error e := by
  simp [parseFields, hdelim, hform]

theorem parseFields_splitTail_error {expectMsc : Bool} {form : Byte} {k : Nat} {e : CmdError}
    (hdelim : byteAt buf 0 = 0x48#8 ∧ byteAt buf 1 = 0x5A#8) (hform : lengthForm buf = .ok (form, k))
    (htail : splitTail expectMsc (slice buf (k + 4) (buf.length - 1)) = .error e) :
    parseFields expectMsc buf = .error e := by
  simp [parseFields, hdelim, hform, htail]

theorem parseFields_ok {expectMsc : Bool} {form msc : Byte} {k : Nat} {payload : List Byte}
    (hdelim : byteAt buf 0 = 0x48#8 ∧ byteAt buf 1 = 0x5A#8) (hform : lengthForm buf = .ok (form, k))
    (htail : splitTail expectMsc (slice buf (k + 4) (buf.length - 1)) = .ok (msc, payload)) :
    parseFields expectMsc buf = .ok ⟨form, byteAt buf k, byteAt buf (k + 1), byteAt buf (k + 2),
      codeOf (byteAt buf (k + 3)) msc, payload⟩ := by
  simp [parseFields, hdelim, hform, htail]

/-- The code is serialized as the two bytes it was read from (R81, R196). -/
theorem u16Bytes_codeOf (lsc msc : Byte) : u16Bytes (codeOf lsc msc) = [lsc, msc] := by
  have hlt := lsc.isLt
  rw [u16Bytes_eq, codeOf, pairLE_toNat, List.cons.injEq, List.cons.injEq]
  refine ⟨BitVec.eq_of_toNat_eq ?_, BitVec.eq_of_toNat_eq ?_, rfl⟩ <;> rw [BitVec.toNat_ofNat] <;> omega

theorem answers_parse_short (s : State) (expectMsc : Bool) (h : buf.length < 8) :
    Answers (.parse expectMsc buf) s [0x03#8, 0x00#8] :=
  (answers_iff (exec_parse_short s expectMsc buf h) _).mpr rfl

theorem answers_parse_mismatch (s : State) (expectMsc : Bool) (hlen : 8 ≤ buf.length)
    (hsum : checksum (slice buf 0 (buf.length - 1)) ≠ byteAt buf (buf.length - 1)) :
    Answers (.parse expectMsc buf) s [0x04#8, 0x01#8] :=
  (answers_iff (exec_parse_mismatch s expectMsc buf (by omega) hsum) _).mpr rfl

theorem answers_parse_malformed (s : State) {expectMsc : Bool} {detail : Byte} (hlen : 8 ≤ buf.length)
    (hsum : checksum (slice buf 0 (buf.length - 1)) = byteAt buf (buf.length - 1))
    (h : parseFields expectMsc buf = .error ⟨.malformedFrame, detail⟩) :
    Answers (.parse expectMsc buf) s [0x04#8, detail] := by
  rw [answers_iff (exec_parse s expectMsc buf (by omega) hsum), h]
  rfl

/-- PARSE answers the fields of a buffer that passes every check. -/
theorem answers_parse_ok (s : State) {expectMsc : Bool} {form msc : Byte} {k : Nat} {payload : List Byte}
    (hlen : 8 ≤ buf.length) (hsum : checksum (slice buf 0 (buf.length - 1)) = byteAt buf (buf.length - 1))
    (hdelim : byteAt buf 0 = 0x48#8 ∧ byteAt buf 1 = 0x5A#8) (hform : lengthForm buf = .ok (form, k))
    (htail : splitTail expectMsc (slice buf (k + 4) (buf.length - 1)) = .ok (msc, payload))
    (hlt : payload.length < 2 ^ 32) :
    Answers (.parse expectMsc buf) s ([0x00#8, form, byteAt buf k, byteAt buf (k + 1), byteAt buf (k + 2),
      byteAt buf (k + 3), msc] ++ le32 payload.length ++ payload) := by
  rw [answers_iff (exec_parse s expectMsc buf (by omega) hsum), parseFields_ok hdelim hform htail, respond,
    frameFieldsResult, u16Bytes_codeOf, bytesField_eq_le32 hlt]
  rfl

/-- Settles O45: each check that fails first names the answer; a buffer that passes them all is sliced. -/
theorem parseChecksInOrderAndSlicesFields : Obligations.ParseChecksInOrderAndSlicesFields := by
  intro s expectMsc buf
  refine ⟨answers_parse_short s expectMsc, fun hlen => ?_⟩
  intro n len a summed delimited form1 form2 k tail
  have hform (h : form1 ∨ form2) :
      lengthForm buf = .ok (if len + 5 = n then 0x01#8 else 0x02#8, k) ∧ tail.length < 2 ^ 32 := by
    have htail : tail.length ≤ n := by
      simp only [tail, List.length_drop, List.length_take]
      omega
    have hlow := (byteAt buf 2).isLt
    have hhigh := (byteAt buf 3).isLt
    obtain ⟨hone, hmax⟩ | ⟨htwo, ha, hmin⟩ := h
    · simp only [k, if_pos hone]
      exact ⟨lengthForm_of_short hone hmax, by omega⟩
    · simp only [k, if_neg (Nat.ne_of_lt htwo)]
      exact ⟨lengthForm_of_long htwo ha hmin, by omega⟩
  refine ⟨answers_parse_mismatch s expectMsc hlen, fun hsum hdelim => ?_, fun hsum hdelim h₁ h₂ => ?_,
    fun hsum hdelim h hmsc hzero => ?_, fun hsum hdelim h hmsc hmsc' => ?_, fun hsum hdelim h hmsc => ?_⟩
  · exact answers_parse_malformed s hlen hsum (parseFields_not_delimited expectMsc hdelim)
  · exact answers_parse_malformed s hlen hsum
      (parseFields_lengthForm_error expectMsc hdelim (lengthForm_error h₁ h₂))
  · subst hmsc
    exact answers_parse_malformed s hlen hsum
      (parseFields_splitTail_error hdelim (hform h).1 (splitTail_true_error hzero))
  · subst hmsc
    obtain ⟨hf, hlt⟩ := hform h
    rw [← List.length_tail]
    exact answers_parse_ok s hlen hsum hdelim hf (splitTail_true_ok hmsc')
      (by rw [List.length_tail]; omega)
  · subst hmsc
    obtain ⟨hf, hlt⟩ := hform h
    exact answers_parse_ok s hlen hsum hdelim hf rfl hlt

end Sys2Proof
end

section
/-! SUPPORT. PARSE reads back the wire frame (R199): its checks hold of every frame, and its offsets are those of the
frame's tail. -/

namespace Sys2Proof

open Sys2Proof.Machine

variable {dest src opt : Byte} {code : Word} {payload : List Byte}

/-- The length field of a wire frame agrees with the frame's length in the form that wrote it (R63). -/
theorem lengthForm_wireFrame (hmax : messageCoreLength code payload ≤ 65539) :
    lengthForm (wireFrame dest src opt code payload)
      = .ok (if messageCoreLength code payload ≤ 255 then 0x01#8 else 0x02#8,
          2 + (lengthField (messageCoreLength code payload)).length) := by
  have hmin : 6 ≤ messageCoreLength code payload := by unfold messageCoreLength; omega
  have hlen := wireFrame_length dest src opt code payload
  have heq := wireFrame_eq_append_wireTail dest src opt code payload
  by_cases hshort : messageCoreLength code payload ≤ 255
  · rw [if_pos hshort] at hlen
    rw [lengthField_of_le hshort] at heq ⊢
    have hbyte : (byteAt (wireFrame dest src opt code payload) 2).toNat = messageCoreLength code payload - 3 := by
      rw [heq]
      exact Nat.mod_eq_of_lt (by omega)
    rw [if_pos hshort]
    exact lengthForm_of_short (by omega) (by omega)
  · rw [if_neg hshort] at hlen
    rw [lengthField_of_lt (by omega)] at heq ⊢
    have hbytes : (byteAt (wireFrame dest src opt code payload) 2).toNat
        + 256 * (byteAt (wireFrame dest src opt code payload) 3).toNat = messageCoreLength code payload - 4 := by
      rw [heq]
      exact toNat_low_byte_add_high_byte (by omega)
    rw [if_neg hshort]
    exact lengthForm_of_long (by omega) (by omega) (by omega)

/-- The bytes between `lsc` and the checksum of a frame whose first `k` bytes end with the length field. -/
theorem slice_append_wireTail {pre : List Byte} {k : Nat} (hk : pre.length = k) :
    slice (pre ++ wireTail dest src opt code payload) (k + 4) ((pre ++ wireTail dest src opt code payload).length - 1)
      = (if 255 < code.toNat then [BitVec.ofNat 8 (code.toNat / 256)] else []) ++ payload := by
  have hsplit : pre ++ wireTail dest src opt code payload
      = (pre ++ [dest, src, opt, BitVec.ofNat 8 (code.toNat % 256)])
        ++ ((if 255 < code.toNat then [BitVec.ofNat 8 (code.toNat / 256)] else []) ++ payload)
        ++ [checksum (wireBody dest src opt code payload)] := by
    simp only [wireTail, List.append_assoc]
  rw [hsplit, slice, List.length_append, List.length_singleton, Nat.add_sub_cancel, List.take_left]
  exact List.drop_left' (by simp [hk])

/-- The tail of a frame splits into the code's high byte and the payload, when PARSE is told whether the code has one. -/
theorem splitTail_of_code (hc : code.toNat ≤ 65535) :
    splitTail (decide (255 < code.toNat))
        ((if 255 < code.toNat then [BitVec.ofNat 8 (code.toNat / 256)] else []) ++ payload)
      = .ok (BitVec.ofNat 8 (code.toNat / 256), payload) := by
  by_cases hmsc : 255 < code.toNat
  · have hne : BitVec.ofNat 8 (code.toNat / 256) ≠ 0x00#8 := by
      rw [← mscOf_eq]
      exact (mscOf_ne_zero_iff hc).mpr hmsc
    rw [if_pos hmsc, decide_eq_true hmsc]
    exact splitTail_true_ok hne
  · rw [if_neg hmsc, decide_eq_false hmsc, Nat.div_eq_of_lt (by omega)]
    rfl

/-- PARSE, told whether the code has a high byte, answers the message of a wire frame. -/
theorem answers_parse_wireFrame (s : State) (hc : code.toNat ≤ 65535)
    (hmax : messageCoreLength code payload ≤ 65539) :
    Answers (.parse (decide (255 < code.toNat)) (wireFrame dest src opt code payload)) s
      ([0x00#8, if messageCoreLength code payload ≤ 255 then 0x01#8 else 0x02#8, dest, src, opt,
        BitVec.ofNat 8 (code.toNat % 256), BitVec.ofNat 8 (code.toNat / 256)] ++ le32 payload.length ++ payload) := by
  have hpre : ([0x48#8, 0x5A#8] ++ lengthField (messageCoreLength code payload)).length
      = 2 + (lengthField (messageCoreLength code payload)).length := List.length_append
  have hsum : checksum (slice (wireFrame dest src opt code payload) 0 ((wireFrame dest src opt code payload).length - 1))
      = byteAt (wireFrame dest src opt code payload) ((wireFrame dest src opt code payload).length - 1) := by
    rw [wireFrame, slice_dropLast_append, byteAt_last_append]
  have hform := lengthForm_wireFrame (dest := dest) (src := src) (opt := opt) hmax
  have hlen := wireFrame_length_ge dest src opt code payload
  have heq := wireFrame_eq_append_wireTail dest src opt code payload
  have htail := slice_append_wireTail (dest := dest) (src := src) (opt := opt) (code := code) (payload := payload) hpre
  obtain ⟨hdest, hsrc, hopt, hlsc, -⟩ := getElem?_append_wireTail _ dest src opt code payload hpre rfl
  rw [← heq] at htail hdest hsrc hopt hlsc
  have hanswer := answers_parse_ok s hlen hsum ⟨by rw [heq]; rfl, by rw [heq]; rfl⟩ hform
    (by rw [htail]; exact splitTail_of_code hc) (by unfold messageCoreLength at hmax; omega)
  simpa only [byteAt, List.getD_eq_getElem?_getD, hdest, hsrc, hopt, hlsc, Option.getD_some] using hanswer

/-- Settles O46: what ENCODE answers is the wire frame of an encodable message, and PARSE reads that back. -/
theorem parseReadsBackEveryEncodedFrame : Obligations.ParseReadsBackEveryEncodedFrame := by
  intro s s' dest src opt code payload f h
  obtain ⟨hc, hmax, -⟩ := encodable_of_answers_encode h
  obtain rfl := eq_wireFrame_of_answers_encode h
  exact answers_parse_wireFrame s' hc hmax

end Sys2Proof
end

section
/-! SUPPORT. One flipped bit and the checksum (R155, R187): the CRC is linear over XOR, so a flip changes the register by
the image of that bit alone, run over the zeros that stand for the bytes behind it. -/

namespace Sys2Proof

open Sys2Proof.Machine

/-! ## The register under XOR -/

theorem crcStep_xor (a b : Word) (x y : Byte) : crcStep (a ^^^ b) (x ^^^ y) = crcStep a x ^^^ crcStep b y := by
  have htop : a ^^^ b ^^^ ((x ^^^ y).setWidth 32 <<< 24)
      = (a ^^^ (x.setWidth 32 <<< 24)) ^^^ (b ^^^ (y.setWidth 32 <<< 24)) := by
    rw [BitVec.setWidth_xor, BitVec.shiftLeft_xor_distrib]
    generalize x.setWidth 32 <<< 24 = u, y.setWidth 32 <<< 24 = v
    ac_rfl
  rw [crcStep, htop, iterate_crcBit_xor, crcStep, crcStep]

theorem foldl_crcStep_xor (a b : Word) (r : List Byte) :
    r.foldl crcStep (a ^^^ b) = r.foldl crcStep a ^^^ (List.replicate r.length 0x00#8).foldl crcStep b := by
  induction r generalizing a b with
  | nil => rfl
  | cons x r ih =>
    have hstep : crcStep (a ^^^ b) x = crcStep a x ^^^ crcStep b 0x00#8 := by
      rw [← crcStep_xor, BitVec.xor_zero]
    rw [List.length_cons, List.replicate_succ, List.foldl_cons, List.foldl_cons, List.foldl_cons, hstep, ih]

/-- What a flip of bit `j` does to the register when `d` bytes follow the flipped one (R155). -/
def flipDelta (d j : Nat) : Word :=
  (List.replicate d 0x00#8).foldl crcStep (crcStep 0x00000000#32 (BitVec.twoPow 8 j))

theorem foldl_crcStep_flipBit (c : Word) (r : List Byte) {p : Nat} (j : Nat) (hp : p < r.length) :
    (flipBit r p j).foldl crcStep c = r.foldl crcStep c ^^^ flipDelta (r.length - 1 - p) j := by
  induction r generalizing c p with
  | nil => exact absurd hp (Nat.not_lt_zero p)
  | cons b r ih =>
    cases p with
    | zero =>
      have hstep : crcStep c (b ^^^ BitVec.twoPow 8 j)
          = crcStep c b ^^^ crcStep 0x00000000#32 (BitVec.twoPow 8 j) := by
        rw [← crcStep_xor, BitVec.xor_zero]
      exact (congrArg (r.foldl crcStep) hstep).trans (foldl_crcStep_xor _ _ r)
    | succ p =>
      rw [List.length_cons, show r.length + 1 - 1 - (p + 1) = r.length - 1 - p by omega]
      exact ih (crcStep c b) (Nat.lt_of_succ_lt_succ hp)

/-! ## The flip through the reorder -/

/-- The reorder moves a flipped bit to its byte's place in the reversed group (R141). -/
theorem reorder_flipBit (seq : List Byte) {i : Nat} (j : Nat) (hi : i < seq.length) :
    reorder (flipBit seq i j) = flipBit (reorder seq) (4 * (i / 4) + (3 - i % 4)) j := by
  induction seq using reorder.induct generalizing i with
  | case1 => exact absurd hi (Nat.not_lt_zero i)
  | case2 | case3 | case4 =>
    simp only [List.length_cons, List.length_nil] at hi
    interval_cases i <;> rfl
  | case5 a b c d rest ih =>
    by_cases hgroup : i < 4
    · interval_cases i <;> rfl
    · obtain ⟨k, rfl⟩ : ∃ k, i = k + 4 := ⟨i - 4, by omega⟩
      have hk : k < rest.length := by simpa using hi
      rw [show 4 * ((k + 4) / 4) + (3 - (k + 4) % 4) = 4 * (k / 4) + (3 - k % 4) + 4 by omega]
      exact congrArg (d :: c :: b :: a :: ·) (ih hk)

/-- One flipped bit changes the register by a value told by the bit and its distance from the reordered end (R155). -/
theorem crc32_reorder_flipBit (seq : List Byte) {i : Nat} (j : Nat) (hi : i < seq.length) :
    crc32 (reorder (flipBit seq i j)) = crc32 (reorder seq)
      ^^^ flipDelta (4 * ((seq.length + 3) / 4) - 1 - (4 * (i / 4) + (3 - i % 4))) j := by
  have hplace : 4 * (i / 4) + (3 - i % 4) < (reorder seq).length := by
    rw [reorder_length]
    omega
  rw [reorder_flipBit seq j hi, crc32, foldl_crcStep_flipBit _ _ j hplace, reorder_length, crc32]

theorem xor_eq_left_iff {n : Nat} (a b : BitVec n) : a ^^^ b = a ↔ b = 0#n := by
  have h := BitVec.xor_right_inj (x := b) (y := 0#n) a
  rwa [BitVec.xor_zero] at h

/-- The checksum misses a flip exactly when the low byte of the change is zero (R155). -/
theorem checksum_flipBit_eq_iff (seq : List Byte) {i : Nat} (j : Nat) (hi : i < seq.length) :
    checksum (flipBit seq i j) = checksum seq
      ↔ lowByte (flipDelta (4 * ((seq.length + 3) / 4) - 1 - (4 * (i / 4) + (3 - i % 4))) j) = 0x00#8 := by
  rw [checksum, checksum, crc32_reorder_flipBit seq j hi, lowByte, BitVec.extractLsb'_xor, lowByte, lowByte,
    xor_eq_left_iff]

/-! ## Flips below 22 bytes (R187) -/

/-- No flip at a distance below 22 goes by the low byte (R155). -/
theorem lowByte_flipDelta_ne_zero : ∀ d < 22, ∀ j < 8, lowByte (flipDelta d j) ≠ 0x00#8 := by
  decide +kernel

theorem checksum_flipBit_ne {body : List Byte} {i j : Nat} (hlen : body.length ≤ 20) (hi : i < body.length)
    (hj : j < 8) : checksum (flipBit body i j) ≠ checksum body := by
  rw [ne_eq, checksum_flipBit_eq_iff body j hi]
  exact lowByte_flipDelta_ne_zero _ (by omega) j hj

theorem flipBit_append_left {buf : List Byte} (rest : List Byte) {i : Nat} (j : Nat) (hi : i < buf.length) :
    flipBit (buf ++ rest) i j = flipBit buf i j ++ rest := by
  rw [flipBit, flipBit, List.modify_eq_set, List.modify_eq_set, List.getElem?_append_left hi,
    List.set_append_left i _ hi]

theorem flipBit_append_last (body : List Byte) (last : Byte) (j : Nat) :
    flipBit (body ++ [last]) body.length j = body ++ [last ^^^ BitVec.twoPow 8 j] := by
  simp [flipBit, List.modify_eq_set]

/-- VALIDATE detects every flip of a buffer it accepts below 22 bytes: in the body the checksum changes, and in the
last byte the byte it is compared with does. -/
theorem answers_validate_flipBit {s : State} {buf : List Byte} {i j : Nat} (hlen : buf.length < 22)
    (hvalid : Answers (.validate buf) s [0x00#8, 0x01#8]) (hi : i < buf.length) (hj : j < 8) :
    Answers (.validate (flipBit buf i j)) s [0x00#8, 0x00#8] := by
  have hmin := length_ge_of_answers_validate hvalid
  obtain rfl | ⟨body, last, rfl⟩ := buf.eq_nil_or_concat'
  · exact absurd hi (Nat.not_lt_zero i)
  have hsum := checksum_eq_of_answers_validate hvalid
  rw [List.length_append, List.length_singleton] at hlen hi hmin
  by_cases hbody : i < body.length
  · rw [flipBit_append_left [last] j hbody]
    refine answers_validate_invalid s ?_ (hsum ▸ checksum_flipBit_ne (by omega) hbody hj)
    rwa [List.length_append, flipBit, List.length_modify]
  · obtain rfl : i = body.length := by omega
    rw [flipBit_append_last]
    refine answers_validate_invalid s (by rwa [List.length_append]) fun h => ?_
    rw [hsum, eq_comm, xor_eq_left_iff] at h
    interval_cases j <;> exact absurd h (by decide)


/-! ## The 22-byte frame (R187) -/

/-- The frame of R187's example. -/
def r187Frame : List Byte :=
  [0x48, 0x5A, 0x11, 0x02, 0x01, 0x22, 0x6D, 0x07, 0x01, 0x02, 0x03, 0x04, 0x05, 0x06, 0x07, 0x08, 0x09, 0x0A, 0x0B,
    0x0C, 0x0D, 0xC0]

theorem wireFrame_r187 :
    wireFrame 2 1 0x22 1901 [0x01, 0x02, 0x03, 0x04, 0x05, 0x06, 0x07, 0x08, 0x09, 0x0A, 0x0B, 0x0C, 0x0D]
      = r187Frame := by
  decide +kernel

variable {j : Nat}

/-- The two flips of the length byte stand at distance 22, where the checksum misses them. -/
theorem checksum_flipBit_r187Frame (hj : j = 4 ∨ j = 5) :
    checksum (slice (flipBit r187Frame 2 j) 0 21) = byteAt (flipBit r187Frame 2 j) 21 := by
  obtain rfl | rfl := hj <;> decide +kernel

/-- With bit 4 flipped the length bytes read 1 and 513, with bit 5 flipped 49 and 561: neither form gives 22 bytes. -/
theorem lengthForm_flipBit_r187Frame (hj : j = 4 ∨ j = 5) :
    lengthForm (flipBit r187Frame 2 j) = .error ⟨.malformedFrame, 0x03#8⟩ := by
  obtain rfl | rfl := hj <;> exact lengthForm_error (by decide) (by decide)

theorem answers_validate_flipBit_r187Frame (s : State) (hj : j = 4 ∨ j = 5) :
    Answers (.validate (flipBit r187Frame 2 j)) s [0x00#8, 0x01#8] := by
  have hlen : (flipBit r187Frame 2 j).length = 22 := List.length_modify ..
  rw [answers_iff (exec_validate s _ (by omega)), hlen, checksum_flipBit_r187Frame hj, beq_self_eq_true]
  rfl

theorem answers_parse_flipBit_r187Frame (s : State) (hj : j = 4 ∨ j = 5) :
    Answers (.parse true (flipBit r187Frame 2 j)) s [0x04#8, 0x03#8] := by
  have hlen : (flipBit r187Frame 2 j).length = 22 := List.length_modify ..
  exact answers_parse_malformed s (by omega) (by rw [hlen]; exact checksum_flipBit_r187Frame hj)
    (parseFields_lengthForm_error true ⟨rfl, rfl⟩ (lengthForm_flipBit_r187Frame hj))

/-- Settles O44: below 22 bytes every flip in the body stands at a distance below 22; R187's frame has two at distance
22, which leave a length field that agrees with neither form. -/
theorem shortestUndetectedFlipNeeds22Bytes : Obligations.ShortestUndetectedFlipNeeds22Bytes := by
  refine ⟨fun _ _ _ _ hlen hvalid hi hj => answers_validate_flipBit hlen hvalid hi hj, fun s hcap => ?_⟩
  have henc : Encodable s.cfg.frameCapacity 2 1 0x22 1901
      [0x01, 0x02, 0x03, 0x04, 0x05, 0x06, 0x07, 0x08, 0x09, 0x0A, 0x0B, 0x0C, 0x0D] :=
    ⟨by decide, by decide, by rw [wireFrame_r187]; exact hcap⟩
  have hanswer := answers_encode_of_encodable henc
  rw [wireFrame_r187] at hanswer
  exact ⟨r187Frame, rfl, hanswer, fun j hj =>
    ⟨answers_validate_flipBit_r187Frame s hj, answers_parse_flipBit_r187Frame s hj⟩⟩

end Sys2Proof
end

section
/-! SUPPORT. The two shapes of a response (R210, R211), and the statement that every command ends in one of them. -/

namespace Sys2Proof

open Sys2Proof.Machine

/-- The statuses of R211 end at `0x08`. -/
theorem statusByte_toNat_le (e : ErrorStatus) : (statusByte e).toNat ≤ 8 := by cases e <;> decide

theorem responseBytes_shape (r : Response) :
    (responseBytes r).head? = some 0x00#8 ∨
      ∃ status detail, status ≠ 0x00#8 ∧ status.toNat ≤ 8 ∧ responseBytes r = [status, detail] := by
  cases r with
  | ok result => exact .inl rfl
  | error e =>
    exact .inr ⟨statusByte e.status, e.detail, statusByte_ne_zero e.status, statusByte_toNat_le e.status, rfl⟩

/-- Settles O14: a command ends in `finish` of one response, and a response has one of the two shapes. -/
theorem everyCommandEndsInOneResponse : Obligations.EveryCommandEndsInOneResponse := by
  intro i s
  obtain ⟨r, hr⟩ := exec_finish s i
  exact ⟨responseBytes r, (answers_iff hr _).mpr rfl, responseBytes_shape r⟩

end Sys2Proof
end

section
/-! SUPPORT. What one step does with each input, an equation per input, and the statements about the step, the reset and
the invariant of the port. -/

namespace Sys2Proof

open Sys2Proof.Machine

variable {s t : State} {rest : List Input}

/-! ## One equation per input -/

theorem step_no_input (h : s.inputs = []) : step s = .next s := by
  simp only [step, h]

theorem step_takes_oldest {i : Input} (h : s.inputs = i :: rest) : step s = takeInput i { s with inputs := rest } := by
  simp only [step, h]

theorem step_request {req : List Byte} (hp : s.port = .idle) (h : s.inputs = .request req :: rest) :
    step s = serve req { s with inputs := rest } :=
  (step_takes_oldest h).trans (whenIdle_idle (s := { s with inputs := rest }) hp _)

theorem step_request_busy {req : List Byte} (hp : s.port = .busy) (h : s.inputs = .request req :: rest) :
    step s = .fault .portBusy :=
  (step_takes_oldest h).trans (whenIdle_busy (s := { s with inputs := rest }) hp _)

theorem step_read (h : s.inputs = .read :: rest) : step s = .next { s with inputs := rest }.readResponse :=
  step_takes_oldest h

theorem step_reset (h : s.inputs = .reset :: rest) : step s = .next { s with inputs := rest }.assertReset :=
  step_takes_oldest h

theorem step_disturbedRequest (hp : s.port = .idle) (h : s.inputs = .disturbedRequest :: rest) :
    step s = .next ({ s with inputs := rest }.finish (Config.disturbedResponse s.draws)) :=
  (step_takes_oldest h).trans (whenIdle_idle (s := { s with inputs := rest }) hp _)

/-- An `Idle` port stops at no input (R218, R219). -/
theorem exists_step_of_idle (hp : s.port = .idle) : ∃ t, step s = .next t := by
  match h : s.inputs with
  | [] => exact ⟨_, step_no_input h⟩
  | .request req :: rest =>
    obtain ⟨r, hr⟩ := serve_finish req { s with inputs := rest }
    exact ⟨_, (step_request hp h).trans hr⟩
  | .read :: rest => exact ⟨_, step_read h⟩
  | .reset :: rest => exact ⟨_, step_reset h⟩
  | .disturbedRequest :: rest => exact ⟨_, step_disturbedRequest hp h⟩

/-! ## Reset and the port's inputs -/

/-- Settles O1: the fields of the reset state. -/
theorem resetLeavesIdlePortAndNoBuffers : Obligations.ResetLeavesIdlePortAndNoBuffers :=
  ⟨rfl, rfl, rfl, rfl, rfl, rfl, rfl⟩

/-- Settles O10: with no input a step stays; a read moves the oldest pending response. -/
theorem idleStepStaysAndReadTakesOldest : Obligations.IdleStepStaysAndReadTakesOldest := by
  refine ⟨fun s => step_no_input, fun s rest h => ⟨_, step_read h, ?_⟩⟩
  simp

/-- Settles O11: what the reset draw delivers is a sublist of what was pending. -/
theorem resetInputReturnsToIdle : Obligations.ResetInputReturnsToIdle :=
  fun s _ h => ⟨_, _, step_reset h, rfl, rfl, rfl, rfl, drawDelivered_sublist s.draws s.pending, rfl, rfl, rfl⟩

/-- Settles O12: a `Busy` port accepts no request. -/
theorem busyPortTakesNoRequest : Obligations.BusyPortTakesNoRequest := fun _ _ _ => step_request_busy

/-! ## The invariant -/

theorem legalResponse_responseBytes (r : Response) : legalResponse (responseBytes r) = true := by
  cases r with
  | ok result => rfl
  | error e => simp [responseBytes, legalResponse, statusByte_toNat_le]

/-- Settles O13: the free response has a legal form, and the command ends as any other. -/
theorem disturbedRequestLeavesBlockUsable : Obligations.DisturbedRequestLeavesBlockUsable :=
  fun _ _ hp h => ⟨_, _, step_disturbedRequest hp h, legalResponse_responseBytes _, rfl, ⟨rfl, rfl, rfl⟩, rfl, rfl, rfl⟩

/-- The end of a command, from any state whose responses are legal, establishes the invariant. -/
theorem portInvariant_finish (hpend : ∀ r ∈ s.pending, legalResponse r = true)
    (hdel : ∀ r ∈ s.delivered, legalResponse r = true) (r : Response) : PortInvariant (s.finish r) := by
  refine ⟨⟨rfl, rfl, rfl⟩, fun rsp hrsp => ?_, hdel⟩
  obtain hrsp | hrsp := List.mem_append.mp hrsp
  · exact hpend rsp hrsp
  · rw [List.mem_singleton.mp hrsp]
    exact legalResponse_responseBytes r

theorem quiescent_readResponse (h : Quiescent s) : Quiescent s.readResponse := by
  obtain ⟨hp, hrb, hfb⟩ := h
  exact ⟨by rw [State.readResponse_port, hp], by rw [State.readResponse_reorderBuf, hrb],
    by rw [State.readResponse_frameBuf, hfb]⟩

theorem portInvariant_readResponse (h : PortInvariant s) : PortInvariant s.readResponse := by
  obtain ⟨hq, hpend, hdel⟩ := h
  refine ⟨quiescent_readResponse hq, fun r hr => ?_, fun r hr => ?_⟩
  · rw [State.readResponse_pending] at hr
    exact hpend r (List.mem_of_mem_tail hr)
  · rw [State.readResponse_delivered] at hr
    obtain hr | hr := List.mem_append.mp hr
    · exact hdel r hr
    · exact hpend r (List.mem_of_mem_take hr)

theorem portInvariant_assertReset (hpend : ∀ r ∈ s.pending, legalResponse r = true)
    (hdel : ∀ r ∈ s.delivered, legalResponse r = true) : PortInvariant s.assertReset := by
  refine ⟨⟨rfl, rfl, rfl⟩, fun r hr => absurd hr List.not_mem_nil, fun r hr => ?_⟩
  obtain hr | hr := List.mem_append.mp hr
  · exact hdel r hr
  · exact hpend r ((drawDelivered_sublist _ _).subset hr)

theorem portInvariant_step (h : PortInvariant s) (hstep : step s = .next t) : PortInvariant t := by
  obtain ⟨hq, hpend, hdel⟩ := h
  obtain ⟨-, rfl⟩ | ⟨_, _, r, -, -, rfl, -⟩ | ⟨_, -, rfl⟩ | ⟨_, -, rfl⟩ | ⟨_, -, -, rfl⟩ := step_cases hstep
  · exact ⟨hq, hpend, hdel⟩
  · exact portInvariant_finish hpend hdel r
  · exact portInvariant_readResponse (s := { s with inputs := _ }) ⟨hq, hpend, hdel⟩
  · exact portInvariant_assertReset hpend hdel
  · exact portInvariant_finish hpend hdel _

/-- Settles O2: the reset state is quiescent and has given no response. -/
theorem resetStateMeetsInvariant : Obligations.ResetStateMeetsInvariant :=
  ⟨⟨rfl, rfl, rfl⟩, fun _ h => absurd h List.not_mem_nil, fun _ h => absurd h List.not_mem_nil⟩

/-- Settles O3, by the cases of a step. -/
theorem everyStepKeepsQuiescenceAndLegalResponses : Obligations.EveryStepKeepsQuiescenceAndLegalResponses :=
  fun _ _ => portInvariant_step

/-! ## Runs -/

theorem quiescent_step (h : Quiescent s) (hstep : step s = .next t) : Quiescent t := by
  obtain ⟨-, rfl⟩ | ⟨_, _, _, -, -, rfl, -⟩ | ⟨_, -, rfl⟩ | ⟨_, -, rfl⟩ | ⟨_, -, -, rfl⟩ := step_cases hstep
  · exact h
  · exact ⟨rfl, rfl, rfl⟩
  · exact quiescent_readResponse (s := { s with inputs := _ }) h
  · exact ⟨rfl, rfl, rfl⟩
  · exact ⟨rfl, rfl, rfl⟩

/-- A run goes on with the rest of its steps from what the first one leaves. -/
theorem run_succ_of_step (h : step s = .next t) (k : Nat) :
    Host.Core.run Sys2Proof.core (k + 1) s = Host.Core.run Sys2Proof.core k t := by
  have hcore : Sys2Proof.core.step s = .next t := h
  simp only [Host.Core.run, hcore]

/-- Settles O4, by induction on the number of steps: a step from a quiescent state is there and ends in one. -/
theorem quiescentBlockRunsForever : Obligations.QuiescentBlockRunsForever := by
  intro s hs k
  induction k generalizing s with
  | zero => exact ⟨s, rfl⟩
  | succ k ih =>
    obtain ⟨t, ht⟩ := exists_step_of_idle hs.1
    rw [run_succ_of_step ht]
    exact ih t (quiescent_step hs ht)

end Sys2Proof
end

section
/-! SUPPORT. The decoder and the encoder are inverse (R80 to R85): the readers accept exactly what the writers write, so
a request decodes to a command exactly when it is that command's encoding. The statements about decode follow. -/

namespace Sys2Proof

open Sys2Proof.Machine

variable {cap : Capacity} {s rest : List Byte} {i : Instr}

/-! ## What the readers accept (R81) -/

theorem append_byte_toNat {n : Nat} (high : BitVec n) (low : Byte) :
    (high ++ low).toNat = 256 * high.toNat + low.toNat := by
  rw [BitVec.toNat_append, ← Nat.shiftLeft_add_eq_or_of_lt low.isLt, Nat.shiftLeft_eq, Nat.mul_comm]

/-- Four bytes put together are written as they stood (R81). -/
theorem u32Bytes_append (b0 b1 b2 b3 : Byte) : u32Bytes (b3 ++ b2 ++ b1 ++ b0) = [b0, b1, b2, b3] := by
  have hsum := append_byte_toNat (b3 ++ b2 ++ b1) b0
  rw [append_byte_toNat (b3 ++ b2), append_byte_toNat b3] at hsum
  simp only [u32Bytes_eq_le32, le32, List.cons.injEq, and_true, BitVec.toNat_eq, BitVec.toNat_ofNat]
  omega

theorem eq_of_readU32 {w : Word} (h : readU32 s = some (w, rest)) : s = u32Bytes w ++ rest := by
  match s with
  | [] | [_] | [_, _] | [_, _, _] => cases h
  | b0 :: b1 :: b2 :: b3 :: tail =>
    obtain ⟨rfl, rfl⟩ := Prod.mk.inj (Option.some.inj h)
    rw [u32Bytes_append]
    rfl

theorem eq_of_readBool {b : Bool} (h : readBool s = some (b, rest)) : s = boolByte b :: rest := by
  match s with
  | [] => cases h
  | c :: tail =>
    rw [readBool] at h
    split at h
    · cases h
      subst c
      rfl
    · split at h
      · cases h
        subst c
        rfl
      · cases h

theorem countWord_length_eq {k : Word} {b : List Byte} (h : b.length = k.toNat) : countWord b.length = k := by
  apply BitVec.eq_of_toNat_eq
  rw [countWord_toNat (h ▸ k.isLt), h]

theorem eq_of_readBytes {b : List Byte} (h : readBytes s = some (b, rest)) :
    s = bytesField b ++ rest ∧ b.length < 2 ^ 32 := by
  obtain ⟨⟨k, tail⟩, hk, h⟩ := Option.bind_eq_some_iff.mp h
  dsimp only at h
  split at h
  · next hle =>
    obtain ⟨rfl, rfl⟩ := Prod.mk.inj (Option.some.inj h)
    have hlen : (tail.take k.toNat).length = k.toNat := List.length_take_of_le hle
    refine ⟨?_, hlen.symm ▸ k.isLt⟩
    rw [bytesField, countWord_length_eq hlen, List.append_assoc, List.take_append_drop, ← eq_of_readU32 hk]
  · cases h

/-! ## Operand lists (R83) -/

theorem Instr.wf_iff (i : Instr) : i.wf = true ↔ i.operandLength < 2 ^ 32 := by rw [Instr.wf, decide_eq_true_iff]

theorem readOperands_encodeOperands (hwf : i.wf = true) (rest : List Byte) :
    readOperands i.mnemonic (encodeOperands i ++ rest) = some (i, rest) := by
  rw [Instr.wf_iff] at hwf
  cases i with
  | optPack | optUnpack => rfl
  | lenEncode n => simp only [Instr.mnemonic, encodeOperands, readOperands, readU32_u32Bytes, Option.map_some]
  | lenDecode b | reorder b | crc32Engine b | checksum b | validate b =>
    simp only [Instr.mnemonic, encodeOperands, readOperands, readBytes_bytesField (s := b) hwf, Option.map_some]
  | encode dest src opt code payload =>
    simp only [Instr.mnemonic, encodeOperands, readOperands, List.cons_append, List.nil_append, List.append_assoc,
      readU32_u32Bytes, Option.bind_some, readBytes_bytesField (s := payload) hwf, Option.map_some]
  | parse expectMsc buf =>
    simp only [Instr.mnemonic, encodeOperands, readOperands, List.cons_append, readBool_boolByte, Option.bind_some,
      readBytes_bytesField (s := buf) hwf, Option.map_some]

theorem eq_of_readOperands {m : Mnemonic} (h : readOperands m s = some (i, rest)) :
    s = encodeOperands i ++ rest ∧ i.wf = true := by
  rw [Instr.wf_iff]
  cases m with
  | optPack | optUnpack =>
    dsimp only [readOperands] at h
    split at h <;> cases h
    exact ⟨rfl, Nat.two_pow_pos 32⟩
  | lenEncode =>
    obtain ⟨⟨n, tail⟩, hn, h⟩ := Option.map_eq_some_iff.mp h
    cases h
    exact ⟨eq_of_readU32 hn, Nat.two_pow_pos 32⟩
  | lenDecode | reorder | crc32Engine | checksum | validate =>
    obtain ⟨⟨b, tail⟩, hb, h⟩ := Option.map_eq_some_iff.mp h
    cases h
    exact eq_of_readBytes hb
  | encode =>
    dsimp only [readOperands] at h
    split at h
    · next dest src opt s₁ =>
      obtain ⟨⟨code, s₂⟩, hcode, h⟩ := Option.bind_eq_some_iff.mp h
      obtain ⟨⟨payload, tail⟩, hpayload, h⟩ := Option.map_eq_some_iff.mp h
      cases h
      obtain ⟨rfl, hlt⟩ := eq_of_readBytes hpayload
      obtain rfl := eq_of_readU32 hcode
      exact ⟨by simp only [encodeOperands, List.cons_append, List.nil_append, List.append_assoc], hlt⟩
    · cases h
  | parse =>
    obtain ⟨⟨expectMsc, s₁⟩, hbool, h⟩ := Option.bind_eq_some_iff.mp h
    obtain ⟨⟨buf, tail⟩, hbuf, h⟩ := Option.map_eq_some_iff.mp h
    cases h
    obtain ⟨rfl, hlt⟩ := eq_of_readBytes hbuf
    exact ⟨eq_of_readBool hbool, hlt⟩

/-! ## Requests (R85) -/

theorem readOperands_encodeOperands_all (hwf : i.wf = true) :
    readOperands i.mnemonic (encodeOperands i) = some (i, []) := by
  simpa using readOperands_encodeOperands hwf []

/-- A request decodes to a command exactly when it is the encoding of that command, well-formed and within capacity. -/
theorem decode_eq_ok_iff (cap : Capacity) (req : List Byte) (i : Instr) :
    decode cap req = .ok i ↔ encode i = req ∧ i.wf = true ∧ i.fits cap = true := by
  constructor
  · intro h
    cases req with
    | nil => cases h
    | cons op operands =>
      obtain ⟨m, hm, hr, hfit⟩ := (decode_cons_eq_ok_iff cap op operands i).mp h
      obtain ⟨rfl, hwf⟩ := eq_of_readOperands hr
      rw [encode, readOperands_mnemonic hr, opcode_of_ofOpcode hm, List.append_nil]
      exact ⟨rfl, hwf, hfit⟩
  · rintro ⟨rfl, hwf, hfit⟩
    exact (decode_cons_eq_ok_iff cap _ _ i).mpr ⟨_, ofOpcode_opcode _, readOperands_encodeOperands_all hwf, hfit⟩

theorem decode_encode (hwf : i.wf = true) (hfit : i.fits cap = true) : decode cap (encode i) = .ok i :=
  (decode_eq_ok_iff cap _ i).mpr ⟨rfl, hwf, hfit⟩

theorem decode_encode_capacityExceeded (hwf : i.wf = true) (hfit : i.fits cap = false) :
    decode cap (encode i) = .error ⟨.capacityExceeded, 0x00#8⟩ := by
  simp [decode, encode, ofOpcode_opcode, readOperands_encodeOperands_all hwf, hfit]

/-- A legal opcode with anything but a command's operands behind it is malformed (R85). -/
theorem decode_malformedRequest {op : Byte} {operands : List Byte} (hlo : 1 ≤ op.toNat) (hhi : op.toNat ≤ 10)
    (h : ∀ i : Instr, i.wf = true → encode i ≠ op :: operands) :
    decode cap (op :: operands) = .error ⟨.malformedRequest, 0x00#8⟩ := by
  cases hm : Mnemonic.ofOpcode op with
  | none =>
    have hillegal := (ofOpcode_eq_none_iff op).mp hm
    omega
  | some m =>
    cases hr : readOperands m operands with
    | none => simp [decode, hm, hr]
    | some p =>
      obtain ⟨j, rest⟩ := p
      have hrest : rest ≠ [] := by
        rintro rfl
        obtain ⟨rfl, hwf⟩ := eq_of_readOperands hr
        refine h j hwf ?_
        rw [encode, readOperands_mnemonic hr, opcode_of_ofOpcode hm, List.append_nil]
      simp [decode, hm, hr, hrest]

/-- Settles O16: a command's encoding decodes to it. -/
theorem decodeOfEncodeIsIdentity : Obligations.DecodeOfEncodeIsIdentity := fun _ _ => decode_encode

/-- Settles O17: only its encoding decodes to a command. -/
theorem everyDecodedRequestIsCanonical : Obligations.EveryDecodedRequestIsCanonical :=
  fun cap req i => (decode_eq_ok_iff cap req i).mp

/-- Settles O20: each request is the encoding of its command, whose operand is short. -/
theorem writtenRequestsDecodeToTheirCommands : Obligations.WrittenRequestsDecodeToTheirCommands := by
  refine ⟨?_, ?_, ?_, ?_, ?_, ?_, ?_, ?_, ?_, ?_⟩ <;>
    exact (decode_eq_ok_iff _ _ _).mpr ⟨rfl, rfl, rfl⟩

/-! ## Requests at the port -/

/-- Settles O7: the step serves the request, which decodes to the command. -/
theorem stepPerformsDecodedCommand : Obligations.StepPerformsDecodedCommand := by
  intro s rest i hp
  have performs (req : List Byte) (hin : s.inputs = .request req :: rest)
      (hd : decode s.cfg.frameCapacity req = .ok i) : step s = exec i { s with inputs := rest } := by
    simp only [step_request hp hin, serve, hd]
  exact ⟨performs, fun hwf hfit hin => performs (encode i) hin (decode_encode hwf hfit)⟩

/-- An `Idle` port answers a request that does not decode with decode's error (R85, R215). -/
theorem portAnswers_of_decode_error {req : List Byte} {s : State} {e : CmdError} (hp : s.port = .idle)
    (hd : decode s.cfg.frameCapacity req = .error e) : PortAnswers req s [statusByte e.status, e.detail] := by
  refine (portAnswers_iff (r := .error e) hp ?_ _).mpr rfl
  simp only [serve, hd, State.finish_accept]

/-- Settles O8: decode's outcome in each case, and the answer that an outcome leads to. -/
theorem decodeErrorsFollowPriority : Obligations.DecodeErrorsFollowPriority := by
  intro s hp
  refine ⟨(portAnswers_of_decode_error (req := []) hp rfl :),
    fun op operands hop => (portAnswers_of_decode_error hp (decode_illegalCommand _ hop operands) :),
    fun op operands hlo hhi h => (portAnswers_of_decode_error hp (decode_malformedRequest hlo hhi h) :),
    fun i hwf hfit => (portAnswers_of_decode_error hp (decode_encode_capacityExceeded hwf hfit) :),
    fun i rsp hwf hfit hanswer => ?_⟩
  obtain ⟨r, hr⟩ := exec_finish s i
  rw [(answers_iff hr rsp).mp hanswer]
  exact portAnswers_of_decode hp (decode_encode hwf hfit) hr

/-! ## Table words -/

/-- Each table word of the map decodes to a command of its opcode that has no operand bytes to count. -/
theorem decodeTableWord_any : ∀ w < 11, 1 ≤ w →
    (decodeTableWord 8 w).any (fun i => i.mnemonic.opcode.toNat = w ∧ i.operandLength = 0) = true := by
  decide +kernel

theorem Instr.fits_iff (cap : Capacity) (i : Instr) : i.fits cap = true ↔ cap.exceededBy i.operandLength = false := by
  rw [Instr.fits, Bool.not_eq_true']

theorem Instr.fits_of_operandLength_eq_zero (h : i.operandLength = 0) (cap : Capacity) : i.fits cap = true := by
  rw [Instr.fits_iff, h]
  cases cap <;> rfl

/-- A block given a table word runs the command the word decodes to. -/
theorem step_withFetchWord (s : State) {nbits w : Nat} (hd : decodeTableWord nbits w = some i)
    (hlen : i.operandLength = 0) : step (s.withFetchWord nbits w) = exec i { s with port := .idle } := by
  have hok : decode .unbounded (tableRequest nbits w) = .ok i := by
    rw [decodeTableWord] at hd
    split at hd
    · next j hj => rw [hj, Option.some.inj hd]
    · cases hd
  obtain ⟨henc, hwf, -⟩ := everyDecodedRequestIsCanonical _ _ _ hok
  refine (stepPerformsDecodedCommand (s.withFetchWord nbits w) s.inputs i rfl).2 hwf
    (Instr.fits_of_operandLength_eq_zero hlen _) ?_
  rw [henc]
  rfl

/-- Settles O21: the ten words decode to operand-free commands, which every capacity admits. -/
theorem tableWordsRunTheirCommand : Obligations.TableWordsRunTheirCommand := by
  intro s w hlo hhi
  obtain ⟨i, hi, hprops⟩ := (Option.any_eq_true _ _).mp (decodeTableWord_any w (by omega) hlo)
  obtain ⟨hop, hlen⟩ := of_decide_eq_true hprops
  exact ⟨i, hi, hop, step_withFetchWord s hi hlen⟩

end Sys2Proof
end

section
/-! SUPPORT. The response of a command as a function of FRAME_CAPACITY and the command, and of a request likewise: `exec`
and `serve` end in it from every state. The statements about what responses depend on, which errors they are and how long
they get follow. -/

namespace Sys2Proof

open Sys2Proof.Machine

/-! ## The response as a function -/

/-- The response a command ends with under a FRAME_CAPACITY; `exec_eq_finish` ties it to `exec`. -/
def commandResponse (cap : Capacity) : Instr → Response
  | .optPack ef sb tr rs rp nm => respond u8Result (optPack ⟨ef, sb, tr, rs, rp, nm⟩)
  | .optUnpack opt => .ok (optionFieldsResult (optUnpack opt))
  | .lenEncode n => respond bytesField (lenEncode n.toNat)
  | .lenDecode field => respond (fun n => u32Bytes (BitVec.ofNat 32 n)) (lenDecode field)
  | .reorder seq => .ok (bytesField (reorder seq))
  | .crc32Engine seq => .ok (u32Bytes (crc32 seq))
  | .checksum seq => .ok (u8Result (checksum seq))
  | .encode dest src opt code payload =>
    if 65535 < code.toNat then .error ⟨.codeOutOfRange, 0x00#8⟩
    else if 65539 < messageCoreLength code payload then .error ⟨.lengthOutOfRange, 0x00#8⟩
    else if cap.exceededBy (wireFrame dest src opt code payload).length then .error ⟨.capacityExceeded, 0x00#8⟩
    else .ok (bytesField (wireFrame dest src opt code payload))
  | .validate buf =>
    if buf.length < 8 then .error ⟨.emptyBuffer, 0x00#8⟩
    else .ok (boolResult (checksum (slice buf 0 (buf.length - 1)) == byteAt buf (buf.length - 1)))
  | .parse expectMsc buf =>
    if buf.length < 8 then .error ⟨.emptyBuffer, 0x00#8⟩
    else if checksum (slice buf 0 (buf.length - 1)) = byteAt buf (buf.length - 1) then
      respond frameFieldsResult (parseFields expectMsc buf)
    else .error ⟨.malformedFrame, 0x01#8⟩

/-- The response a request ends with, decode's error included; `serve_eq_finish` ties it to `serve`. -/
def requestResponse (cap : Capacity) (req : List Byte) : Response :=
  match decode cap req with
  | .error e => .error e
  | .ok i => commandResponse cap i

theorem exec_encode_eq_finish (s : State) (dest src opt : Byte) (code : Word) (payload : List Byte) :
    exec (.encode dest src opt code payload) s
      = .next (s.finish (commandResponse s.cfg.frameCapacity (.encode dest src opt code payload))) := by
  by_cases hc : 65535 < code.toNat
  · rw [exec_encode_codeOutOfRange s dest src opt code payload hc, commandResponse, if_pos hc]
  have hcore := coreBody_length_eq_messageCoreLength (dest := dest) (src := src) (opt := opt) (payload := payload)
    (Nat.not_lt.mp hc)
  by_cases hlen : 65539 < messageCoreLength code payload
  · rw [exec_encode_lengthOutOfRange s dest src opt code payload hc (hcore ▸ hlen), commandResponse, if_neg hc,
      if_pos hlen]
  · have hframe : wireFrame dest src opt code payload = frameBody (coreBody dest src opt code payload)
        ++ [checksum (frameBody (coreBody dest src opt code payload))] := by
      rw [frameBody_coreBody (Nat.not_lt.mp hc), wireFrame]
    rw [exec_encode_finished s dest src opt code payload _ _ hc rfl (by rw [coreBody_length]; omega)
      (by omega) hframe, commandResponse, if_neg hc, if_neg hlen]

/-- Every command ends in its response, from every state. -/
theorem exec_eq_finish (s : State) (i : Instr) :
    exec i s = .next (s.finish (commandResponse s.cfg.frameCapacity i)) := by
  cases i with
  | optPack | optUnpack | lenEncode | lenDecode | reorder | crc32Engine | checksum => rfl
  | encode dest src opt code payload => exact exec_encode_eq_finish s dest src opt code payload
  | validate buf =>
    rw [commandResponse]
    split
    · next hshort => exact exec_validate_short s buf hshort
    · next hlen => exact exec_validate s buf hlen
  | parse expectMsc buf =>
    rw [commandResponse]
    split
    · next hshort => exact exec_parse_short s expectMsc buf hshort
    · next hlen =>
      split
      · next hsum => exact exec_parse s expectMsc buf hlen hsum
      · next hsum => exact exec_parse_mismatch s expectMsc buf hlen hsum

theorem answers_iff_commandResponse (i : Instr) (s : State) (rsp : List Byte) :
    Answers i s rsp ↔ rsp = responseBytes (commandResponse s.cfg.frameCapacity i) :=
  answers_iff (exec_eq_finish s i) rsp

theorem requestResponse_of_decode_ok {cap : Capacity} {req : List Byte} {i : Instr} (h : decode cap req = .ok i) :
    requestResponse cap req = commandResponse cap i := by
  rw [requestResponse, h]

theorem requestResponse_of_decode_error {cap : Capacity} {req : List Byte} {e : CmdError}
    (h : decode cap req = .error e) : requestResponse cap req = .error e := by
  rw [requestResponse, h]

/-- Every request ends in its response, from every state. -/
theorem serve_eq_finish (req : List Byte) (s : State) :
    serve req s = .next (s.finish (requestResponse s.cfg.frameCapacity req)) := by
  cases hd : decode s.cfg.frameCapacity req with
  | error e => simp only [serve, requestResponse_of_decode_error hd, hd, State.finish_accept]
  | ok i => simp only [serve, requestResponse_of_decode_ok hd, hd, exec_eq_finish]

/-! ## What a response depends on (R24, R28, R52) -/

/-- Settles O5: the function is `requestResponse`; by induction on the requests, each step takes one. -/
theorem responsesDependOnRequestAndCapacityInOrder : Obligations.ResponsesDependOnRequestAndCapacityInOrder := by
  refine ⟨fun cap req => responseBytes (requestResponse cap req), fun reqs => ?_⟩
  induction reqs with
  | nil => exact fun s _ hin => ⟨s, rfl, hin, by simp, rfl, rfl⟩
  | cons req reqs ih =>
    intro s hp hin
    have hstep := (step_request hp hin).trans (serve_eq_finish req _)
    obtain ⟨t, hrun, hinputs, hpend, hdel, hcfg⟩ :=
      ih ({ s with inputs := reqs.map .request }.finish (requestResponse s.cfg.frameCapacity req)) rfl rfl
    refine ⟨t, (run_succ_of_step hstep _).trans hrun, hinputs, ?_, hdel, hcfg⟩
    simpa using hpend

/-- Settles O6: a request's response and a reset forget the register and the buffers, and a read leaves them alone. -/
theorem transientStateIsNeverObserved : Obligations.TransientStateIsNeverObserved := by
  intro s t crc rb fb h
  obtain ⟨hin, rfl⟩ | ⟨req, rest, r, hin, hp, -, hserve⟩ | ⟨rest, hin, rfl⟩ | ⟨rest, hin, rfl⟩ |
    ⟨rest, hin, hp, rfl⟩ := step_cases h
  · exact ⟨_, step_no_input hin, rfl, rfl, rfl, rfl, rfl, rfl⟩
  · obtain rfl := Host.Outcome.next.inj ((serve_eq_finish req _).symm.trans hserve)
    have hstep := step_request (s := { s with crc := crc, reorderBuf := rb, frameBuf := fb }) hp hin
    exact ⟨_, hstep.trans (serve_eq_finish req _), rfl, rfl, rfl, rfl, rfl, rfl⟩
  · exact ⟨_, step_read hin, by simp, by simp, by simp, by simp, by simp, by simp⟩
  · exact ⟨_, step_reset hin, rfl, rfl, rfl, rfl, rfl, rfl⟩
  · exact ⟨_, step_disturbedRequest hp hin, rfl, rfl, rfl, rfl, rfl, rfl⟩

/-! ## Which errors a command raises (R214) -/

/-- A response whose only errors have a status of the list has one of the two shapes, with that status. -/
theorem responseBytes_shape_of_errors {r : Response} {statuses : List Byte}
    (h : ∀ e, r = .error e → statusByte e.status ∈ statuses) :
    (responseBytes r).head? = some 0x00#8 ∨
      ∃ status detail, responseBytes r = [status, detail] ∧ status ∈ statuses := by
  cases r with
  | ok result => exact .inl rfl
  | error e => exact .inr ⟨_, _, rfl, h e rfl⟩

theorem respond_eq_error_iff {α : Type} {serialize : α → List Byte} {x : Except CmdError α} {e : CmdError} :
    respond serialize x = .error e ↔ x = .error e := by
  cases x <;> simp [respond]

theorem optPack_error_status {f : OptionFields} {e : CmdError} (h : optPack f = .error e) :
    e.status = .invalidField := by
  rw [optPack] at h
  split at h <;> cases h
  rfl

theorem lenEncode_error_status {n : Nat} {e : CmdError} (h : lenEncode n = .error e) :
    e.status = .lengthOutOfRange := by
  rw [lenEncode] at h
  split at h <;> cases h
  rfl

theorem lenDecode_error_status {field : List Byte} {e : CmdError} (h : lenDecode field = .error e) :
    e.status = .lengthOutOfRange := by
  unfold lenDecode raise at h
  split at h
  · split at h <;> cases h
    rfl
  · split at h <;> cases h
    rfl
  · cases h
    rfl

theorem lengthForm_error_status {buf : List Byte} {e : CmdError} (h : lengthForm buf = .error e) :
    e.status = .malformedFrame := by
  unfold lengthForm raise at h
  dsimp only at h
  split at h
  · split at h <;> cases h
    rfl
  · split at h
    · split at h <;> cases h
      rfl
    · cases h
      rfl

theorem splitTail_error_status {expectMsc : Bool} {tail : List Byte} {e : CmdError}
    (h : splitTail expectMsc tail = .error e) : e.status = .malformedFrame := by
  unfold splitTail raise at h
  split at h
  · split at h
    · cases h
      rfl
    · split at h <;> cases h
      rfl
  · cases h

theorem parseFields_error_status {expectMsc : Bool} {buf : List Byte} {e : CmdError}
    (h : parseFields expectMsc buf = .error e) : e.status = .malformedFrame := by
  rw [parseFields] at h
  split at h
  · cases h
    rfl
  · split at h
    · next hform =>
      cases h
      exact lengthForm_error_status hform
    · split at h
      · next htail =>
        cases h
        exact splitTail_error_status htail
      · cases h

theorem commandResponse_encode_error {cap : Capacity} {dest src opt : Byte} {code : Word} {payload : List Byte}
    {e : CmdError} (h : commandResponse cap (.encode dest src opt code payload) = .error e) :
    e.status = .codeOutOfRange ∨ e.status = .lengthOutOfRange ∨ e.status = .capacityExceeded := by
  rw [commandResponse] at h
  split at h
  · cases h
    exact .inl rfl
  · split at h
    · cases h
      exact .inr (.inl rfl)
    · split at h <;> cases h
      exact .inr (.inr rfl)

theorem commandResponse_parse_error {cap : Capacity} {expectMsc : Bool} {buf : List Byte} {e : CmdError}
    (h : commandResponse cap (.parse expectMsc buf) = .error e) :
    e.status = .emptyBuffer ∨ e.status = .malformedFrame := by
  rw [commandResponse] at h
  split at h
  · cases h
    exact .inl rfl
  · split at h
    · exact .inr (parseFields_error_status (respond_eq_error_iff.mp h))
    · cases h
      exact .inr rfl

/-- Settles O15: the errors of each command's rule, by command. -/
theorem errorsOfEachCommand : Obligations.ErrorsOfEachCommand := by
  intro i s
  refine ⟨_, (answers_iff_commandResponse i s _).mpr rfl, responseBytes_shape_of_errors fun e h => ?_⟩
  cases i with
  | optUnpack | reorder | crc32Engine | checksum => cases h
  | optPack => simp [optPack_error_status (respond_eq_error_iff.mp h), statusByte]
  | lenEncode => simp [lenEncode_error_status (respond_eq_error_iff.mp h), statusByte]
  | lenDecode => simp [lenDecode_error_status (respond_eq_error_iff.mp h), statusByte]
  | encode => obtain hs | hs | hs := commandResponse_encode_error h <;> simp [hs, statusByte]
  | validate =>
    rw [commandResponse] at h
    split at h <;> cases h
    exact List.mem_singleton.mpr rfl
  | parse => obtain hs | hs := commandResponse_parse_error h <;> simp [hs, statusByte]

/-! ## How long a response is (R85) -/

theorem bytesField_length (s : List Byte) : (bytesField s).length = s.length + 4 := by
  rw [bytesField, List.length_append, Nat.add_comm]
  rfl

/-- A response is never longer than its error form or its result behind the status byte. -/
theorem responseBytes_length_le {r : Response} {n : Nat} (hn : 2 ≤ n)
    (h : ∀ result, r = .ok result → result.length < n) :
    (responseBytes r).length ≤ n := by
  cases r with
  | ok result => exact h result rfl
  | error e => exact hn

theorem respond_eq_ok_iff {α : Type} {serialize : α → List Byte} {x : Except CmdError α} {result : List Byte} :
    respond serialize x = .ok result ↔ ∃ v, x = .ok v ∧ serialize v = result := by
  cases x <;> simp [respond]

theorem lenEncode_eq_ok {n : Nat} {field : List Byte} (h : lenEncode n = .ok field) :
    6 ≤ n ∧ n ≤ 65539 ∧ field = lengthField n := by
  rw [lenEncode] at h
  split at h
  · cases h
  · next hrange =>
    obtain rfl := Except.ok.inj h
    exact ⟨by omega, by omega, rfl⟩

theorem splitTail_eq_ok {expectMsc : Bool} {tail payload : List Byte} {msc : Byte}
    (h : splitTail expectMsc tail = .ok (msc, payload)) :
    tail = (if msc ≠ 0x00#8 then [msc] else []) ++ payload := by
  unfold splitTail at h
  split at h
  · split at h
    · cases h
    · split at h
      · cases h
      · next hmsc =>
        cases h
        rw [if_pos hmsc]
        rfl
  · cases h
    rfl

theorem lengthForm_eq_ok {buf : List Byte} {form : Byte} {k : Nat} (h : lengthForm buf = .ok (form, k)) :
    (k = 3 ∧ (byteAt buf 2).toNat + 5 = buf.length ∧ (byteAt buf 2).toNat ≤ 252) ∨
    (k = 4 ∧ (byteAt buf 2).toNat + 256 * (byteAt buf 3).toNat + 7 = buf.length ∧
      252 ≤ (byteAt buf 2).toNat + 256 * (byteAt buf 3).toNat) := by
  rw [← pairLE_toNat]
  unfold lengthForm raise at h
  dsimp only at h
  split at h
  · split at h <;> cases h
    exact .inl ⟨rfl, by omega, by omega⟩
  · split at h
    · split at h <;> cases h
      exact .inr ⟨rfl, by omega, by omega⟩
    · cases h

/-- What PARSE's structural checks have found when they pass: the delimiters, the length form, and the tail behind `lsc`. -/
theorem parseFields_eq_ok {expectMsc : Bool} {buf : List Byte} {f : FrameFields}
    (h : parseFields expectMsc buf = .ok f) :
    ∃ form k msc payload, (byteAt buf 0 = 0x48#8 ∧ byteAt buf 1 = 0x5A#8) ∧ lengthForm buf = .ok (form, k) ∧
      slice buf (k + 4) (buf.length - 1) = (if msc ≠ 0x00#8 then [msc] else []) ++ payload ∧
      f = ⟨form, byteAt buf k, byteAt buf (k + 1), byteAt buf (k + 2), codeOf (byteAt buf (k + 3)) msc, payload⟩ := by
  rw [parseFields] at h
  split at h
  · cases h
  · next hdelim =>
    split at h
    · cases h
    · next form k hform =>
      split at h
      · cases h
      · next msc payload htail =>
        cases h
        exact ⟨form, k, msc, payload, by simpa [not_or] using hdelim, hform, splitTail_eq_ok htail, rfl⟩

theorem slice_length (s : List Byte) (i j : Nat) : (slice s i j).length = min j s.length - i := by
  rw [slice, List.length_drop, List.length_take]

/-- A frame is at least 8 bytes longer than its payload (R184). -/
theorem payload_length_of_parseFields {expectMsc : Bool} {buf : List Byte} {f : FrameFields} (hlen : 8 ≤ buf.length)
    (h : parseFields expectMsc buf = .ok f) : f.payload.length + 8 ≤ buf.length := by
  obtain ⟨form, k, msc, payload, -, hform, htail, rfl⟩ := parseFields_eq_ok h
  have hsplit := congrArg List.length htail
  rw [slice_length, List.length_append] at hsplit
  obtain ⟨rfl, -, -⟩ | ⟨rfl, hn, hmin⟩ := lengthForm_eq_ok hform <;> dsimp only <;> omega

theorem frameFieldsResult_length (f : FrameFields) : (frameFieldsResult f).length = f.payload.length + 10 := by
  simp only [frameFieldsResult, u16Bytes, List.length_append, bytesField_length, List.length_cons, List.length_nil]
  omega

/-- A command whose operand fits FRAME_CAPACITY has a result of at most 7 bytes more. -/
theorem result_length_lt {cap : Nat} {i : Instr} {result : List Byte} (hfit : i.operandLength ≤ cap)
    (h : commandResponse (.atMost cap) i = .ok result) : result.length < cap + 8 := by
  cases i with
  | optPack =>
    obtain ⟨v, -, rfl⟩ := respond_eq_ok_iff.mp h
    exact Nat.lt_add_left cap (by decide : 1 < 8)
  | optUnpack =>
    cases h
    exact Nat.lt_add_left cap (by decide : 6 < 8)
  | lenEncode n =>
    obtain ⟨field, hfield, rfl⟩ := respond_eq_ok_iff.mp h
    obtain ⟨-, -, rfl⟩ := lenEncode_eq_ok hfield
    rw [bytesField_length, lengthField_length]
    split <;> omega
  | lenDecode =>
    obtain ⟨n, -, rfl⟩ := respond_eq_ok_iff.mp h
    exact Nat.lt_add_left cap (by decide : 4 < 8)
  | reorder seq =>
    cases h
    have hseq : seq.length ≤ cap := hfit
    rw [bytesField_length, reorder_length]
    omega
  | crc32Engine =>
    cases h
    exact Nat.lt_add_left cap (by decide : 4 < 8)
  | checksum =>
    cases h
    exact Nat.lt_add_left cap (by decide : 1 < 8)
  | encode dest src opt code payload =>
    rw [commandResponse] at h
    split at h
    · cases h
    · split at h
      · cases h
      · split at h <;> cases h
        next hframe =>
        simp only [Capacity.exceededBy, decide_eq_true_eq] at hframe
        rw [bytesField_length]
        omega
  | validate =>
    rw [commandResponse] at h
    split at h <;> cases h
    exact Nat.lt_add_left cap (by decide : 1 < 8)
  | parse expectMsc buf =>
    have hbuf : buf.length ≤ cap := hfit
    rw [commandResponse] at h
    split at h
    · cases h
    · next hlen =>
      split at h
      · obtain ⟨f, hf, rfl⟩ := respond_eq_ok_iff.mp h
        have hpayload := payload_length_of_parseFields (Nat.not_lt.mp hlen) hf
        rw [frameFieldsResult_length]
        omega
      · cases h

theorem Instr.fits_atMost_iff (cap : Nat) (i : Instr) : i.fits (.atMost cap) = true ↔ i.operandLength ≤ cap := by
  rw [Instr.fits_iff, Capacity.exceededBy, decide_eq_false_iff_not, Nat.not_lt]

/-- Settles O9: a request that decodes is one whose operand fits, and any other gets an error's two bytes. -/
theorem responseLengthIsBounded : Obligations.ResponseLengthIsBounded := by
  intro s req cap hp hcap
  refine ⟨_, (portAnswers_iff hp (serve_eq_finish req s) _).mpr rfl, responseBytes_length_le (by omega) fun result h => ?_⟩
  rw [hcap] at h
  cases hd : decode (.atMost cap) req with
  | error e =>
    rw [requestResponse_of_decode_error hd] at h
    cases h
  | ok i =>
    rw [requestResponse_of_decode_ok hd] at h
    obtain ⟨-, -, hfit⟩ := (decode_eq_ok_iff _ _ _).mp hd
    exact result_length_lt ((Instr.fits_atMost_iff cap i).mp hfit) h

end Sys2Proof
end

section
/-! SUPPORT. LEN_ENCODE and LEN_DECODE undo each other (R127). -/

namespace Sys2Proof

open Sys2Proof.Machine

theorem lenDecode_lengthField {n : Nat} (h₁ : 6 ≤ n) (h₂ : n ≤ 65539) : lenDecode (lengthField n) = .ok n := by
  by_cases hone : n ≤ 255
  · have hlen : (BitVec.ofNat 8 (n - 3)).toNat = n - 3 := Nat.mod_eq_of_lt (by omega)
    rw [lengthField_of_le hone, lenDecode_one_ok (by omega) (by omega), hlen, Nat.sub_add_cancel (by omega)]
  · have hsum := toNat_low_byte_add_high_byte (n := n - 4) (by omega)
    rw [lengthField_of_lt (by omega), lenDecode_two_ok (by omega), hsum, Nat.sub_add_cancel (by omega)]

/-- A byte is found again in the field that its two halves make (R120). -/
theorem ofNat_low_high (lsl msl : Byte) :
    [BitVec.ofNat 8 ((lsl.toNat + 256 * msl.toNat) % 256), BitVec.ofNat 8 ((lsl.toNat + 256 * msl.toNat) / 256)]
      = [lsl, msl] := by
  simp only [List.cons.injEq, and_true, BitVec.toNat_eq, BitVec.toNat_ofNat]
  omega

/-- LEN_DECODE accepts a field exactly when LEN_ENCODE produces it (R125). -/
theorem lenDecode_eq_ok_iff (field : List Byte) (n : Nat) :
    lenDecode field = .ok n ↔ 6 ≤ n ∧ n ≤ 65539 ∧ field = lengthField n := by
  refine ⟨fun h => ?_, fun ⟨h₁, h₂, h⟩ => h ▸ lenDecode_lengthField h₁ h₂⟩
  match field with
  | [] | _ :: _ :: _ :: _ => cases h
  | [len] =>
    by_cases hrange : len.toNat < 3 ∨ 252 < len.toNat
    · cases (lenDecode_one_error hrange).symm.trans h
    · obtain rfl := Except.ok.inj ((lenDecode_one_ok (by omega) (by omega)).symm.trans h)
      refine ⟨by omega, by omega, ?_⟩
      rw [lengthField_of_le (by omega), Nat.add_sub_cancel, BitVec.ofNat_toNat, BitVec.setWidth_eq]
  | [lsl, msl] =>
    by_cases hrange : lsl.toNat + 256 * msl.toNat < 252
    · cases (lenDecode_two_error hrange).symm.trans h
    · obtain rfl := Except.ok.inj ((lenDecode_two_ok (by omega)).symm.trans h)
      refine ⟨by omega, by omega, ?_⟩
      rw [lengthField_of_lt (by omega), Nat.add_sub_cancel, ofNat_low_high]

theorem u32Bytes_injective {v w : Word} (h : u32Bytes v = u32Bytes w) : v = w := by
  have hread := readU32_u32Bytes v []
  rw [h, readU32_u32Bytes] at hread
  exact (Prod.mk.inj (Option.some.inj hread)).1.symm

theorem answers_lenEncode_iff (s : State) (n : Word) (field : List Byte) :
    Answers (.lenEncode n) s ([0x00#8] ++ le32 field.length ++ field) ↔
      6 ≤ n.toNat ∧ n.toNat ≤ 65539 ∧ field = lengthField n.toNat := by
  constructor
  · intro h
    by_cases hrange : n.toNat < 6 ∨ 65539 < n.toNat
    · exact absurd (h.unique (answers_lenEncode_outOfRange s hrange)) (by simp)
    · have h₁ : 6 ≤ n.toNat := by omega
      have h₂ : n.toNat ≤ 65539 := by omega
      exact ⟨h₁, h₂, (List.append_inj (h.unique (answers_lenEncode s h₁ h₂)) rfl).2⟩
  · rintro ⟨h₁, h₂, rfl⟩
    exact answers_lenEncode s h₁ h₂

theorem answers_lenDecode_iff (s : State) (field : List Byte) (n : Word) :
    Answers (.lenDecode field) s ([0x00#8] ++ le32 n.toNat) ↔ lenDecode field = .ok n.toNat := by
  refine ⟨fun h => ?_, fun h => answers_lenDecode s h n.isLt⟩
  rw [answers_iff_commandResponse, commandResponse] at h
  cases hd : lenDecode field with
  | error e =>
    rw [hd] at h
    exact absurd (List.cons.inj h).1.symm (statusByte_ne_zero e.status)
  | ok k =>
    obtain ⟨-, hk, -⟩ := (lenDecode_eq_ok_iff field k).mp hd
    rw [hd, ← u32Bytes_eq_le32] at h
    rw [u32Bytes_injective (List.cons.inj h).2, BitVec.toNat_ofNat, Nat.mod_eq_of_lt (by omega)]

/-- Settles O29: both answers say that the field is the length field of a core length in range. -/
theorem lenEncodeAndDecodeAreInverse : Obligations.LenEncodeAndDecodeAreInverse := by
  refine ⟨fun s n field h => ?_, fun s field n h => ?_⟩
  · obtain ⟨h₁, h₂, rfl⟩ := (answers_lenEncode_iff s n field).mp h
    refine ⟨(answers_lenDecode_iff s _ n).mpr (lenDecode_lengthField h₁ h₂), ?_⟩
    rw [lengthField_length]
    split <;> omega
  · rw [answers_lenEncode_iff, ← lenDecode_eq_ok_iff]
    exact (answers_lenDecode_iff s field n).mp h

end Sys2Proof
end

section
/-! SUPPORT. PARSE accepts wire frames only (R196 with R174): the buffer is put together again from what PARSE's checks
have found. -/

namespace Sys2Proof

open Sys2Proof.Machine

variable {buf : List Byte}

/-! ## A buffer by its parts -/

theorem take_eq_map_byteAt {s : List Byte} {k : Nat} (hk : k ≤ s.length) :
    s.take k = (List.range k).map (byteAt s) := by
  apply List.ext_getElem
  · simp [hk]
  · intro i h₁ h₂
    have hi : i < s.length := by simp at h₁; omega
    simp [byteAt, hi]

/-- A buffer is its first `k` bytes, the bytes up to its last, and its last byte. -/
theorem eq_map_byteAt_append_slice {k : Nat} (hk : k < buf.length) :
    buf = (List.range k).map (byteAt buf) ++ slice buf k (buf.length - 1) ++ [byteAt buf (buf.length - 1)] := by
  obtain rfl | ⟨body, last, rfl⟩ := buf.eq_nil_or_concat'
  · exact absurd hk (Nat.not_lt_zero k)
  · have hbody : k ≤ body.length := by simpa [Nat.lt_succ_iff] using hk
    rw [byteAt_last_append, ← take_eq_map_byteAt hk.le, List.take_append_of_le_length hbody]
    simp [slice]

/-! ## The code of the two bytes -/

/-- The message code that PARSE's two code bytes stand for (R196). -/
def codeWord (lsc msc : Byte) : Word := BitVec.ofNat 32 (lsc.toNat + 256 * msc.toNat)

theorem codeWord_toNat (lsc msc : Byte) : (codeWord lsc msc).toNat = lsc.toNat + 256 * msc.toNat :=
  Nat.mod_eq_of_lt (by omega)

theorem lt_codeWord_toNat_iff (lsc msc : Byte) : 255 < (codeWord lsc msc).toNat ↔ msc ≠ 0x00#8 := by
  rw [codeWord_toNat, ne_eq, BitVec.toNat_eq, BitVec.toNat_ofNat]
  omega

theorem messageCoreLength_codeWord (lsc msc : Byte) (payload : List Byte) :
    messageCoreLength (codeWord lsc msc) payload
      = 6 + ((if msc ≠ 0x00#8 then [msc] else []) ++ payload).length := by
  simp only [messageCoreLength, lt_codeWord_toNat_iff]
  split
  · simp only [List.length_append, List.length_singleton, Nat.add_assoc]
  · rfl

/-- The frame of a message whose code is given by its two bytes. -/
theorem wireBody_codeWord (dest src opt lsc msc : Byte) (payload : List Byte) :
    wireBody dest src opt (codeWord lsc msc) payload
      = [0x48#8, 0x5A#8] ++ lengthField (messageCoreLength (codeWord lsc msc) payload) ++ [dest, src, opt, lsc]
        ++ ((if msc ≠ 0x00#8 then [msc] else []) ++ payload) := by
  obtain ⟨hlsc, hmsc⟩ := List.cons.inj (ofNat_low_high lsc msc)
  rw [wireBody, codeWord_toNat, hlsc, (List.cons.inj hmsc).1, ← codeWord_toNat]
  simp only [lt_codeWord_toNat_iff, lengthField, List.append_assoc]

/-! ## PARSE backwards -/

/-- A buffer whose length form agrees carries the length field of its own core (R198). -/
theorem lengthField_of_lengthForm {form : Byte} {k coreLen : Nat} (hlen : 8 ≤ buf.length)
    (h : lengthForm buf = .ok (form, k)) (hcore : coreLen = 6 + (slice buf (k + 4) (buf.length - 1)).length) :
    coreLen ≤ 65539 ∧ k + 4 < buf.length ∧
      [byteAt buf 0, byteAt buf 1] ++ lengthField coreLen = (List.range k).map (byteAt buf) := by
  rw [slice_length] at hcore
  obtain ⟨rfl, hn, hmax⟩ | ⟨rfl, hn, hmin⟩ := lengthForm_eq_ok h
  · obtain rfl : coreLen = (byteAt buf 2).toNat + 3 := by omega
    refine ⟨by omega, by omega, ?_⟩
    rw [lengthField_of_le (by omega), Nat.add_sub_cancel, BitVec.ofNat_toNat, BitVec.setWidth_eq]
    rfl
  · obtain rfl : coreLen = (byteAt buf 2).toNat + 256 * (byteAt buf 3).toNat + 4 := by omega
    refine ⟨by omega, by omega, ?_⟩
    rw [lengthField_of_lt (by omega), Nat.add_sub_cancel, ofNat_low_high]
    rfl

/-- A buffer that passes PARSE's checks is the wire frame of the message PARSE reads. -/
theorem eq_wireFrame_of_parse {form msc : Byte} {k : Nat} {payload : List Byte} (hlen : 8 ≤ buf.length)
    (hsum : checksum (slice buf 0 (buf.length - 1)) = byteAt buf (buf.length - 1))
    (hdelim : byteAt buf 0 = 0x48#8 ∧ byteAt buf 1 = 0x5A#8) (hform : lengthForm buf = .ok (form, k))
    (htail : slice buf (k + 4) (buf.length - 1) = (if msc ≠ 0x00#8 then [msc] else []) ++ payload) :
    messageCoreLength (codeWord (byteAt buf (k + 3)) msc) payload ≤ 65539 ∧
      buf = wireFrame (byteAt buf k) (byteAt buf (k + 1)) (byteAt buf (k + 2)) (codeWord (byteAt buf (k + 3)) msc)
        payload := by
  obtain ⟨hmax, hk, hfield⟩ := lengthField_of_lengthForm hlen hform
    (by rw [htail, ← messageCoreLength_codeWord (byteAt buf (k + 3))])
  refine ⟨hmax, ?_⟩
  have hbody : wireBody (byteAt buf k) (byteAt buf (k + 1)) (byteAt buf (k + 2)) (codeWord (byteAt buf (k + 3)) msc)
      payload = (List.range (k + 4)).map (byteAt buf) ++ slice buf (k + 4) (buf.length - 1) := by
    rw [wireBody_codeWord, ← htail, ← hdelim.1, ← hdelim.2, hfield]
    simp [List.range_succ]
  have hbuf := eq_map_byteAt_append_slice hk
  rw [← hbody] at hbuf
  rw [hbuf, slice_dropLast_append, byteAt_last_append] at hsum
  rw [wireFrame, hsum]
  exact hbuf

/-- PARSE's answer begins with `0x00` only when the buffer has passed every check. -/
theorem parse_checks_of_answers {s : State} {expectMsc : Bool} {result : List Byte}
    (h : Answers (.parse expectMsc buf) s (0x00#8 :: result)) :
    8 ≤ buf.length ∧ checksum (slice buf 0 (buf.length - 1)) = byteAt buf (buf.length - 1) ∧
      ∃ f, parseFields expectMsc buf = .ok f ∧ frameFieldsResult f = result := by
  rw [answers_iff_commandResponse] at h
  cases hr : commandResponse s.cfg.frameCapacity (.parse expectMsc buf) with
  | error e =>
    rw [hr] at h
    exact absurd (List.cons.inj h).1.symm (statusByte_ne_zero e.status)
  | ok bytes =>
    rw [hr] at h
    obtain rfl : result = bytes := (List.cons.inj h).2
    rw [commandResponse] at hr
    split at hr
    · cases hr
    · next hlen =>
      split at hr
      · next hsum => exact ⟨Nat.not_lt.mp hlen, hsum, respond_eq_ok_iff.mp hr⟩
      · cases hr

/-- Settles O47: an accepted buffer is the wire frame of the answered message, which no frame of 258 bytes is, and ENCODE
answers the wire frame. -/
theorem parseAcceptsOnlyEncodedFrames : Obligations.ParseAcceptsOnlyEncodedFrames := by
  intro s expectMsc buf payload form dest src opt lsc msc h
  obtain ⟨hlen, hsum, f, hf, hresult⟩ := parse_checks_of_answers
    (result := [form, dest, src, opt, lsc, msc] ++ le32 payload.length ++ payload) h
  obtain ⟨form', k, msc', payload', hdelim, hform, htail, rfl⟩ := parseFields_eq_ok hf
  rw [frameFieldsResult, u16Bytes_codeOf] at hresult
  simp only [List.cons_append, List.nil_append, List.cons.injEq] at hresult
  obtain ⟨-, rfl, rfl, rfl, rfl, rfl, hbytes⟩ := hresult
  obtain rfl : payload' = payload := (List.append_inj hbytes rfl).2
  obtain ⟨hmax, hbuf⟩ := eq_wireFrame_of_parse hlen hsum hdelim hform htail
  refine ⟨fun h258 => ?_, fun hcap => ?_⟩
  · rw [hbuf, wireFrame_length] at h258
    split at h258 <;> omega
  · rw [hbuf] at hcap
    have hanswer := answers_encode_of_encodable (s := s) ⟨by rw [codeWord_toNat]; omega, hmax, hcap⟩
    rwa [← hbuf] at hanswer

end Sys2Proof
end

section
/-! SUPPORT. The CRC over GF(2) (R155): it is affine, and the flips below distance 240 that the checksum misses are found
by running the register's change on, one zero byte per distance. -/

namespace Sys2Proof

open Sys2Proof.Machine

/-! ## Affinity -/

theorem foldl_crcStep_zipWith_xor (x y : Word) {a b : List Byte} (h : a.length = b.length) :
    (List.zipWith (· ^^^ ·) a b).foldl crcStep (x ^^^ y) = a.foldl crcStep x ^^^ b.foldl crcStep y := by
  induction a generalizing b x y with
  | nil =>
    obtain rfl := List.length_eq_zero_iff.mp h.symm
    rfl
  | cons c a ih =>
    cases b with
    | nil => cases h
    | cons d b =>
      rw [List.zipWith_cons_cons, List.foldl_cons, crcStep_xor]
      exact ih _ _ (Nat.succ.inj h)

/-- Settles O38: the register is linear in its start and its bytes, and the start is the XOR of three of itself. -/
theorem crcIsAffine : Obligations.CrcIsAffine := by
  intro a b c hab hbc
  have hstart : crcInitial = crcInitial ^^^ crcInitial ^^^ crcInitial := by rw [BitVec.xor_self, BitVec.zero_xor]
  have hzip : (List.zipWith (· ^^^ ·) a b).length = c.length := by rw [List.length_zipWith]; omega
  calc crc32 (List.zipWith (· ^^^ ·) (List.zipWith (· ^^^ ·) a b) c)
      = (List.zipWith (· ^^^ ·) (List.zipWith (· ^^^ ·) a b) c).foldl crcStep
          (crcInitial ^^^ crcInitial ^^^ crcInitial) := by rw [← hstart, crc32]
    _ = crc32 a ^^^ crc32 b ^^^ crc32 c := by
      rw [foldl_crcStep_zipWith_xor _ _ hzip, foldl_crcStep_zipWith_xor _ _ hab, crc32, crc32, crc32]

/-! ## The flips that the checksum misses -/

/-- Of the `n` distances from `d` on, those at which the change of the register, `w` at distance `d`, leaves the low byte as
it was. -/
def missedDistances : Nat → Nat → Word → List Nat
  | 0, _, _ => []
  | n + 1, d, w =>
    if lowByte w = 0x00#8 then d :: missedDistances n (d + 1) (crcStep w 0x00#8)
    else missedDistances n (d + 1) (crcStep w 0x00#8)

theorem mem_missedDistances_succ_iff (e n d : Nat) (w : Word) :
    e ∈ missedDistances (n + 1) d w ↔ (e = d ∧ lowByte w = 0x00#8) ∨ e ∈ missedDistances n (d + 1) (crcStep w 0x00#8) := by
  rw [missedDistances]
  split <;> simp [*]

theorem le_of_mem_missedDistances {e n d : Nat} {w : Word} (h : e ∈ missedDistances n d w) : d ≤ e := by
  induction n generalizing d w with
  | zero => cases h
  | succ n ih =>
    obtain ⟨rfl, -⟩ | h := (mem_missedDistances_succ_iff e n d w).mp h
    · exact le_rfl
    · exact Nat.le_of_succ_le (ih h)

/-- A distance is listed exactly when the change, run over as many zero bytes, leaves the low byte as it was. -/
theorem add_mem_missedDistances_iff {n k : Nat} (d : Nat) (w : Word) (hk : k < n) :
    d + k ∈ missedDistances n d w ↔ lowByte ((List.replicate k 0x00#8).foldl crcStep w) = 0x00#8 := by
  induction n generalizing d k w with
  | zero => exact absurd hk (Nat.not_lt_zero k)
  | succ n ih =>
    rw [mem_missedDistances_succ_iff]
    cases k with
    | zero =>
      have hlater : d ∉ missedDistances n (d + 1) (crcStep w 0x00#8) :=
        fun h => Nat.not_succ_le_self d (le_of_mem_missedDistances h)
      simp [hlater]
    | succ k =>
      rw [← Nat.add_assoc, Nat.add_right_comm, ih (d + 1) _ (Nat.lt_of_succ_lt_succ hk), List.replicate_succ,
        List.foldl_cons]
      simp only [show d + 1 + k ≠ d by omega, false_and, false_or]

/-- The flips below distance 240 that the checksum misses, by distance and bit (R155). -/
def undetectedFlips : List (Nat × Nat) :=
  [(22, 4), (22, 5), (54, 0), (116, 0), (116, 1), (116, 2), (239, 6), (239, 7)]

theorem missedDistances_of_bit : ∀ j < 8, missedDistances 240 0 (crcStep 0x00000000#32 (BitVec.twoPow 8 j))
    = (undetectedFlips.filter (·.2 = j)).map (·.1) := by
  decide +kernel

/-- Below distance 240 the low byte of a flip's change is zero for the listed flips alone (R155). -/
theorem lowByte_flipDelta_eq_zero_iff {d j : Nat} (hd : d < 240) (hj : j < 8) :
    lowByte (flipDelta d j) = 0x00#8 ↔ (d, j) ∈ undetectedFlips := by
  rw [flipDelta, ← add_mem_missedDistances_iff 0 _ hd, Nat.zero_add, missedDistances_of_bit j hj]
  simp

/-- Settles O39: the table is `flipDelta`. -/
theorem flippedBitChangesChecksumByDistance : Obligations.FlippedBitChangesChecksumByDistance := by
  refine ⟨flipDelta, fun seq i j hi hj => ⟨crc32_reorder_flipBit seq j hi, fun hd => ?_⟩⟩
  rw [checksum_flipBit_eq_iff seq j hi]
  exact lowByte_flipDelta_eq_zero_iff hd hj

end Sys2Proof
end

section
/-! SUPPORT. Host programs of one pseudo-instruction (R88): what issuing a request, a command line and the two commands of
a pseudo-instruction do to a run on a block whose responses are all read, and the statements about FRAME and CRC32_FULL. -/

namespace Sys2Proof.Machine

open Sys2Proof

/-! ## One request of the host -/

/-- The host's request and its read are the end of the command and the read of its response. -/
theorem transact_eq_next {s : State} (hp : s.port = .idle) (req : List Byte) :
    transact req s = .next (s.finish (requestResponse s.cfg.frameCapacity req)).readResponse := by
  have hstep : step { s with inputs := .request req :: .read :: s.inputs }
      = .next ({ s with inputs := .read :: s.inputs }.finish (requestResponse s.cfg.frameCapacity req)) :=
    (step_request (s := { s with inputs := .request req :: .read :: s.inputs }) hp rfl).trans (serve_eq_finish req _)
  simp only [transact, hstep]
  exact step_read (rest := s.inputs) rfl

/-- The block of a run is `Idle` and every response has been read. -/
def HostRun.Ready (h : HostRun) : Prop := h.state.port = .idle ∧ h.state.pending = []

/-- A run after one more request was answered with `r` and the answer read. -/
def HostRun.answered (h : HostRun) (r : Response) : HostRun :=
  { h with state := (h.state.finish r).readResponse, responses := h.responses ++ [responseBytes r] }

/-- The fields the host can bind: those of a success, none of an error. -/
def boundFields (m : Mnemonic) : Response → Option Fields
  | .ok result => resultFields m result
  | .error _ => none

@[simp] theorem HostRun.bindName_state (h : HostRun) (bind : Option String) (fields : Option Fields) :
    (h.bindName bind fields).state = h.state := by cases bind <;> rfl
@[simp] theorem HostRun.bindName_responses (h : HostRun) (bind : Option String) (fields : Option Fields) :
    (h.bindName bind fields).responses = h.responses := by cases bind <;> rfl
@[simp] theorem HostRun.bindName_stopped (h : HostRun) (bind : Option String) (fields : Option Fields) :
    (h.bindName bind fields).stopped = h.stopped := by cases bind <;> rfl

theorem HostRun.ready_bindName_answered {h : HostRun} (hready : h.Ready) (r : Response) (bind : Option String)
    (fields : Option Fields) : ((h.answered r).bindName bind fields).Ready := by
  obtain ⟨-, hpend⟩ := hready
  simp [HostRun.Ready, HostRun.answered, hpend]

theorem HostRun.issue_of_ready {h : HostRun} (hready : h.Ready) (bind : Option String) (m : Mnemonic)
    (req : List Byte) :
    h.issue bind (some m) req
      = (h.answered (requestResponse h.state.cfg.frameCapacity req)).bindName bind
          (boundFields m (requestResponse h.state.cfg.frameCapacity req)) := by
  obtain ⟨hp, hpend⟩ := hready
  rw [HostRun.issue, transact_eq_next hp]
  cases requestResponse h.state.cfg.frameCapacity req with
  | ok result => simp [hpend, responseBytes, boundFields, HostRun.answered]
  | error e => simp [hpend, responseBytes, boundFields, HostRun.answered, statusByte_ne_zero]

/-- A command line whose operands resolve to a well-formed command issues its request (R87). -/
theorem HostRun.command_of_ready {h : HostRun} (hready : h.Ready) (bind : Option String) {m : Mnemonic}
    {operands : List Operand} {i : Instr} (hi : (operands.mapM (Operand.resolve h.env)).bind (instrOf m) = some i)
    (hwf : i.wf = true) :
    h.command bind m operands
      = (h.answered (requestResponse h.state.cfg.frameCapacity (encode i))).bindName bind
          (boundFields m (requestResponse h.state.cfg.frameCapacity (encode i))) := by
  rw [HostRun.command, hi]
  exact (if_pos hwf).trans (HostRun.issue_of_ready hready bind m (encode i))

theorem requestResponse_encode {cap : Capacity} {i : Instr} (hwf : i.wf = true) (hfit : i.fits cap = true) :
    requestResponse cap (encode i) = commandResponse cap i :=
  requestResponse_of_decode_ok (decode_encode hwf hfit)

theorem requestResponse_encode_capacityExceeded {cap : Capacity} {i : Instr} (hwf : i.wf = true)
    (hfit : i.fits cap = false) : requestResponse cap (encode i) = .error ⟨.capacityExceeded, 0x00#8⟩ :=
  requestResponse_of_decode_error (decode_encode_capacityExceeded hwf hfit)

/-! ## The two commands of a pseudo-instruction (R88) -/

section pseudo

variable {s : State} {m₁ m₂ : Mnemonic} {operands₁ operands₂ : List Operand} {i₁ i₂ : Instr}

/-- A run before its first line. -/
def freshRun (s : State) : HostRun := ⟨s, [], [], false⟩

theorem freshRun_ready (hp : s.port = .idle) (hpend : s.pending = []) : (freshRun s).Ready := ⟨hp, hpend⟩

/-- A first command that binds nothing is the only one issued. -/
theorem responses_pseudo_unbound (hready : (freshRun s).Ready)
    (hi₁ : (operands₁.mapM (Operand.resolve [])).bind (instrOf m₁) = some i₁) (hwf₁ : i₁.wf = true)
    (hbound : boundFields m₁ (requestResponse s.cfg.frameCapacity (encode i₁)) = none) :
    ((freshRun s).pseudo [.command (some pseudoName) m₁ operands₁, .command none m₂ operands₂]).responses
      = [responseBytes (requestResponse s.cfg.frameCapacity (encode i₁))] := by
  have h₁ := HostRun.command_of_ready hready (some pseudoName) hi₁ hwf₁
  have hcfg : (freshRun s).state.cfg = s.cfg := rfl
  rw [hcfg, hbound] at h₁
  simp only [HostRun.pseudo, h₁]
  simp [HostRun.answered, HostRun.bindName, freshRun, Env.value]

/-- A first command that binds one value is followed by the second, whose operands may name that value. -/
theorem responses_pseudo_bound {field : String} {v : Value} (hready : (freshRun s).Ready)
    (hi₁ : (operands₁.mapM (Operand.resolve [])).bind (instrOf m₁) = some i₁) (hwf₁ : i₁.wf = true)
    (hbound : boundFields m₁ (requestResponse s.cfg.frameCapacity (encode i₁)) = some [(field, v)])
    (hi₂ : (operands₂.mapM (Operand.resolve [(pseudoName, [(field, v)])])).bind (instrOf m₂) = some i₂)
    (hwf₂ : i₂.wf = true) :
    ((freshRun s).pseudo [.command (some pseudoName) m₁ operands₁, .command none m₂ operands₂]).responses
      = [responseBytes (requestResponse s.cfg.frameCapacity (encode i₁)),
          responseBytes (requestResponse s.cfg.frameCapacity (encode i₂))] := by
  have h₁ := HostRun.command_of_ready hready (some pseudoName) hi₁ hwf₁
  have hready₁ := HostRun.ready_bindName_answered hready (requestResponse s.cfg.frameCapacity (encode i₁))
    (some pseudoName) (some [(field, v)])
  have hcfg : (freshRun s).state.cfg = s.cfg := rfl
  have h₂ := HostRun.command_of_ready hready₁ none hi₂ hwf₂
  rw [hcfg, hbound] at h₁
  simp only [HostRun.pseudo, h₁, h₂]
  simp [HostRun.answered, HostRun.bindName, freshRun, Env.value]

end pseudo

end Sys2Proof.Machine

namespace Sys2Proof

open Sys2Proof.Machine

/-! ## FRAME -/

theorem asU8_num_toNat (b : Byte) : Value.asU8 (.num b.toNat) = some b := by
  simp [Value.asU8, b.isLt]

theorem asU32_num_toNat (w : Word) : Value.asU32 (.num w.toNat) = some w := by
  simp [Value.asU32, w.isLt]

theorem optPack_operands_resolve (ef sb tr rs rp nm : Byte) :
    ([Operand.num ef.toNat, .num sb.toNat, .num tr.toNat, .num rs.toNat, .num rp.toNat, .num nm.toNat].mapM
      (Operand.resolve [])).bind (instrOf .optPack) = some (.optPack ef sb tr rs rp nm) := by
  simp [Operand.resolve, instrOf, asU8_num_toNat]

/-- The packed byte, bound to R88's name, is ENCODE's third operand. -/
theorem encode_operands_resolve (dest src opt : Byte) (code : Word) (payload : List Byte) :
    ([Operand.num dest.toNat, .num src.toNat, .ref pseudoName, .num code.toNat, .bytes payload].mapM
      (Operand.resolve [(pseudoName, [("opt", byteValue opt)])])).bind (instrOf .encode)
        = some (.encode dest src opt code payload) := by
  simp [Operand.resolve, Env.value, byteValue, instrOf, asU8_num_toNat, asU32_num_toNat, Value.asBytes]

theorem requestResponse_optPack (cap : Capacity) (ef sb tr rs rp nm : Byte) :
    requestResponse cap (encode (.optPack ef sb tr rs rp nm)) = respond u8Result (optPack ⟨ef, sb, tr, rs, rp, nm⟩) :=
  requestResponse_encode rfl (Instr.fits_of_operandLength_eq_zero rfl _)

/-- Settles O48: OPT_PACK's byte is bound and stands for ENCODE's third operand; its error binds nothing. -/
theorem framePseudoChainsPackerIntoEncode : Obligations.FramePseudoChainsPackerIntoEncode := by
  intro s dest src ef sb tr rs rp nm code payload hp hpend _ hlt hcap line
  have hready := freshRun_ready hp hpend
  have hpack := requestResponse_optPack s.cfg.frameCapacity ef sb tr rs rp nm
  have hi₁ := optPack_operands_resolve ef sb tr rs rp nm
  refine ⟨fun opt rsp hopt hrsp => ?_, fun k hk => ?_⟩
  · rw [answers_optPack_ok_iff] at hopt
    rw [hopt] at hpack
    have hwf₂ : (Instr.encode dest src opt code payload).wf = true := (Instr.wf_iff _).mpr hlt
    have hrun := responses_pseudo_bound hready hi₁ rfl (by rw [hpack]; rfl)
      (encode_operands_resolve dest src opt code payload) hwf₂
    rw [hpack, requestResponse_encode hwf₂ ((Instr.fits_iff _ _).mpr hcap),
      ← (answers_iff_commandResponse _ s rsp).mp hrsp] at hrun
    exact hrun
  · rw [answers_iff_commandResponse, commandResponse, ← hpack] at hk
    rw [hk]
    refine responses_pseudo_unbound hready hi₁ rfl ?_
    cases hr : requestResponse s.cfg.frameCapacity (encode (.optPack ef sb tr rs rp nm)) with
    | ok result =>
      rw [hr] at hk
      exact absurd (List.cons.inj hk).1 (by decide)
    | error e => rfl

/-! ## CRC32_FULL -/

/-- The host reads back the byte sequence that REORDER's result counts (R81). -/
theorem boundFields_reorder {r : List Byte} (h : r.length < 2 ^ 32) :
    boundFields .reorder (.ok (bytesField r)) = some [("r", .bytes r)] := by
  have hread := readBytes_bytesField h []
  rw [List.append_nil] at hread
  simp only [boundFields, resultFields, bytesFields, hread]

/-- CRC32_FULL answers REORDER's result and then what the port answers to CRC32_ENGINE of the reordered sequence. -/
theorem responses_crc32Full {s : State} {seq : List Byte} (hp : s.port = .idle) (hpend : s.pending = [])
    (hlt : (reorder seq).length < 2 ^ 32) (hcap : s.cfg.frameCapacity.exceededBy seq.length = false) :
    (runProgram [.crc32Full none (.bytes seq)] s).responses
      = [0x00#8 :: bytesField (reorder seq),
          responseBytes (requestResponse s.cfg.frameCapacity (encode (.crc32Engine (reorder seq))))] := by
  have hseq : seq.length < 2 ^ 32 := by
    rw [reorder_length] at hlt
    omega
  have hwf₁ : (Instr.reorder seq).wf = true := (Instr.wf_iff _).mpr hseq
  have hreorder : requestResponse s.cfg.frameCapacity (encode (.reorder seq)) = .ok (bytesField (reorder seq)) :=
    requestResponse_encode hwf₁ ((Instr.fits_iff _ _).mpr hcap)
  have hrun := responses_pseudo_bound (m₁ := .reorder) (operands₁ := [.bytes seq]) (m₂ := .crc32Engine)
    (operands₂ := [.ref pseudoName]) (freshRun_ready hp hpend) (by simp [Operand.resolve, instrOf, Value.asBytes])
    hwf₁ (by rw [hreorder]; exact boundFields_reorder hlt)
    (by simp [Operand.resolve, Env.value, instrOf, Value.asBytes]) ((Instr.wf_iff (.crc32Engine _)).mpr hlt)
  rw [hreorder] at hrun
  exact hrun

/-- Settles O49: REORDER's bytes are bound and are CRC32_ENGINE's operand, which FRAME_CAPACITY admits or not. -/
theorem crc32FullPseudoComputesTheChecksumRegister : Obligations.Crc32FullPseudoComputesTheChecksumRegister := by
  intro s seq hp hpend _ hlt hcap r first
  have hr : r.length = 4 * ((seq.length + 3) / 4) := reorder_length seq
  have hrlt : r.length < 2 ^ 32 := hr ▸ hlt
  have hwf : (Instr.crc32Engine r).wf = true := (Instr.wf_iff _).mpr hrlt
  have hrun := responses_crc32Full hp hpend hrlt hcap
  rw [bytesField_eq_le32 hrlt] at hrun
  refine ⟨fun hrcap => ⟨?_, rfl⟩, fun cap hfc hover => ⟨?_, ?_⟩⟩
  · rw [requestResponse_encode hwf ((Instr.fits_iff _ _).mpr hrcap), commandResponse, u32Bytes_eq_le32] at hrun
    exact hrun
  · have hfit : (Instr.crc32Engine r).fits s.cfg.frameCapacity = false := by
      rw [hfc, ← Bool.not_eq_true, Instr.fits_atMost_iff]
      exact Nat.not_le.mpr hover
    rw [requestResponse_encode_capacityExceeded hwf hfit] at hrun
    exact hrun
  · have hseq : seq.length ≤ cap := by
      rw [hfc] at hcap
      exact Nat.not_lt.mp (of_decide_eq_false hcap)
    omega

end Sys2Proof
end
